-- ==== Sys2Proof/Word.lean ====
section
/-! DEFINITION. The word types of the block: the command word, the packed byte, the six-bit data word, the pixel. -/

namespace Sys2Proof

/-- A command word: "Every command is one 32-bit command word" (30_encoding.md R58). -/
abbrev Word := BitVec 32

/-- A byte of the packed plane buffer (10_state.md R24). -/
abbrev Byte := BitVec 8

/-- One word on the six data lines (00_scope.md R13). -/
abbrev DataWord := BitVec 6

/-- A scan address, 0 to 15 (00_scope.md R11). -/
abbrev ScanAddr := BitVec 4

/-- An array of `m` rows of `n` entries each, read as `g[i][j]`. -/
abbrev Grid (α : Type) (m n : Nat) := Vector (Vector α n) m

/-- A pixel: three channel intensities of 3 bits each (10_state.md R22, 00_scope.md R9). -/
structure Pixel where
  r : BitVec 3
  g : BitVec 3
  b : BitVec 3
deriving DecidableEq, Repr, Inhabited

end Sys2Proof
end

