-- ==== Sys2Proof/Syntax.lean ====
section
/-! DEFINITION. The commands: one constructor per row of spec/opcode_table.json. -/

namespace Sys2Proof

/-- A decoded command (30_encoding.md R63, R64). Operands are the unsigned immediates of R62. The reserved bits of a word are
no operand of any command (R66). The table's two RESERVED rows (opcode 0x7, and opcodes 0x8 to 0xF) are two constructors
(log 16). -/
inductive Instr where
  /-- NOP, opcode 0x0 (40_buffer_commands.md R70). -/
  | nop
  /-- WRPIX, opcode 0x1 (40_buffer_commands.md R71). -/
  | wrpix (slot : BitVec 2) (col : BitVec 6) (r g b : BitVec 3)
  /-- CLRROWS, opcode 0x2 (40_buffer_commands.md R72). -/
  | clrrows
  /-- PACK, opcode 0x3 (41_packer.md R79). -/
  | pack
  /-- RENDER, opcode 0x4 (42_matrix_driver.md R93). -/
  | render (addr : BitVec 4)
  /-- WRDIRTY, opcode 0x5 (40_buffer_commands.md R73). -/
  | wrdirty (q : BitVec 2) (value : BitVec 16)
  /-- RENDERD, opcode 0x6 (42_matrix_driver.md R95). -/
  | renderd (addr : BitVec 4)
  /-- RESERVED, opcode 0x7 (30_encoding.md R65). -/
  | reserved7
  /-- RESERVED, opcodes 0x8 to 0xF: `op` is the whole opcode field (30_encoding.md R65). -/
  | reserved8f (op : BitVec 4)
deriving DecidableEq, Repr

end Sys2Proof
end

