-- ==== Sys2Proof/WellFormed.lean ====
section
/-! DEFINITION. Which terms of `Instr` are commands of the block. -/

namespace Sys2Proof

/-- A well-formed command. Every operand fills its field exactly, so every operand value is legal (30_encoding.md R62); the
one check is that the opcode of the table's second RESERVED row is 0x8 to 0xF (R63, R65). -/
def Instr.wf : Instr → Bool
  | .nop => true
  | .wrpix _ _ _ _ _ => true
  | .clrrows => true
  | .pack => true
  | .render _ => true
  | .wrdirty _ _ => true
  | .renderd _ => true
  | .reserved7 => true
  | .reserved8f op => op.msb

end Sys2Proof
end

