-- ==== Sys2Proof/Decode.lean ====
section
/-! DEFINITION. Command decoding, total on every 32-bit word (30_encoding.md R64), and the encoder written from the same
format tables (R61, R63). -/

namespace Sys2Proof

/-- The opcode field `cmd[31:28]` (30_encoding.md R58). -/
def opcodeField (w : Word) : BitVec 4 := w.extractLsb' 28 4

/-- 30_encoding.md R64. Reserved bits are not inputs of decode (R66, log 17), and no word is illegal (R67). -/
def decode (w : Word) : Instr :=
  match opcodeField w with
  | 0x0#4 => .nop
  | 0x1#4 =>
    .wrpix (w.extractLsb' 24 2) (w.extractLsb' 16 6) (w.extractLsb' 0 3) (w.extractLsb' 3 3) (w.extractLsb' 6 3)
  | 0x2#4 => .clrrows
  | 0x3#4 => .pack
  | 0x4#4 => .render (w.extractLsb' 0 4)
  | 0x5#4 => .wrdirty (w.extractLsb' 16 2) (w.extractLsb' 0 16)
  | 0x6#4 => .renderd (w.extractLsb' 0 4)
  | 0x7#4 => .reserved7
  | op => .reserved8f op

/-- The opcode of a command (30_encoding.md R63). -/
def Instr.opcode : Instr → BitVec 4
  | .nop => 0x0#4
  | .wrpix _ _ _ _ _ => 0x1#4
  | .clrrows => 0x2#4
  | .pack => 0x3#4
  | .render _ => 0x4#4
  | .wrdirty _ _ => 0x5#4
  | .renderd _ => 0x6#4
  | .reserved7 => 0x7#4
  | .reserved8f op => op

/-- Place a field with its bit 0 at bit `lo` of a command word. -/
def field {n : Nat} (v : BitVec n) (lo : Nat) : Word := v.setWidth 32 <<< lo

/-- Format N (30_encoding.md R61): opcode 31:28, reserved 27:0 written 0. -/
def formatN (op : BitVec 4) : Word := field op 28

/-- Format P (30_encoding.md R61): opcode, reserved 27:26, slot 25:24, reserved 23:22, col 21:16, reserved 15:9, b 8:6, g 5:3,
r 2:0. -/
def formatP (op : BitVec 4) (slot : BitVec 2) (col : BitVec 6) (r g b : BitVec 3) : Word :=
  field op 28 ||| field slot 24 ||| field col 16 ||| field b 6 ||| field g 3 ||| field r 0

/-- Format A (30_encoding.md R61): opcode, reserved 27:4, addr 3:0. -/
def formatA (op : BitVec 4) (addr : BitVec 4) : Word := field op 28 ||| field addr 0

/-- Format Q (30_encoding.md R61): opcode, reserved 27:18, q 17:16, value 15:0. -/
def formatQ (op : BitVec 4) (q : BitVec 2) (value : BitVec 16) : Word := field op 28 ||| field q 16 ||| field value 0

/-- The word of a well-formed command, reserved bits 0 (30_encoding.md R61, R63, R68). -/
def encode : Instr → Word
  | .nop => formatN 0x0#4
  | .wrpix slot col r g b => formatP 0x1#4 slot col r g b
  | .clrrows => formatN 0x2#4
  | .pack => formatN 0x3#4
  | .render addr => formatA 0x4#4 addr
  | .wrdirty q value => formatQ 0x5#4 q value
  | .renderd addr => formatA 0x6#4 addr
  | .reserved7 => formatN 0x7#4
  | .reserved8f op => formatN op

/-- The command word whose low `nbits` bits are those of `w` and whose other bits are 0 (opcode-table numbering: every
command is one 32-bit word, so table bit n is word bit n; log 23). -/
def tableWord (nbits w : Nat) : Word := BitVec.ofNat 32 (w % 2 ^ nbits)

/-- What the decoder reads from an opcode-table word. Every command has 32 bits (30_encoding.md R58), so a longer one is none
of the block's (log 23). -/
def decodeTableWord (nbits w : Nat) : Option Instr :=
  if nbits ≤ 32 then some (decode (tableWord nbits w)) else none

end Sys2Proof
end

