-- ==== Sys2Proof/Config.lean ====
section
/-! DEFINITION. What is fixed when the block is built (parameters, 10_state.md R19) and the free values that the spec
leaves unspecified (93_implementation_defined.md). An `opaque` constant has no body: nothing can be proved of its value. -/

namespace Sys2Proof

/-- A pixel map, given as two functions (41_packer.md R74): `rowMap a h s` is the logical row that half `h`, sub-row `s`
shows at scan address `a`, and `colMap h x` the logical column at position `x` of half `h`'s stretch of the chain. -/
structure PixelMap where
  rowMap : Fin 16 → Fin 2 → Fin 2 → Fin 64
  colMap : Fin 2 → Fin 64 → Fin 64

/-- A legal pixel map: `rowMap` a bijection from the (address, half, sub-row) triples onto the 64 rows, and each
`colMap h` a permutation of the 64 columns (41_packer.md R74). -/
def PixelMap.Legal (m : PixelMap) : Prop :=
  Function.Bijective (fun t : Fin 16 × Fin 2 × Fin 2 => m.rowMap t.1 t.2.1 t.2.2) ∧
    ∀ h, Function.Bijective (m.colMap h)

/-- The spec's default map: `rowMap(a, h, s) = 32*h + 16*s + a`, `colMap(h, x) = x` (41_packer.md R74). -/
def PixelMap.default : PixelMap where
  rowMap a h s := ⟨32 * h.val + 16 * s.val + a.val, by omega⟩
  colMap _ x := x

/-- The PIXEL_MAP of the modelled block: the spec's default (00_scope.md R15, log 3; DESIGN CHOICE). The operations that
use a pixel map take it as an argument. -/
def Config.pixelMap : PixelMap := PixelMap.default

/-- OE_PIN_ACTIVE_LOW, the polarity of the electrical output-enable pin: the spec's default (00_scope.md R16, log 4). -/
def Config.oePinActiveLow : Bool := true

/-- FREE VALUE: one less than BASE_DELAY (00_scope.md R14: open, log 2). -/
opaque Config.baseDelayPred : Nat

/-- BASE_DELAY in delay units: any natural with BASE_DELAY ≥ 1 (00_scope.md R14, log 2). -/
def Config.baseDelay : Nat := Config.baseDelayPred + 1

/-- The kinds of pin action that have a duration in T_ACTION: all but the exposure wait (00_scope.md R17). -/
inductive ActionKind where
  | setOE
  | setRow
  | shift
  | pulseLatch
deriving DecidableEq, Repr

/-- FREE VALUE: T_ACTION, the finite, non-negative duration of each kind of action other than an exposure wait, in delay
units (00_scope.md R17: open, log 5). No state change depends on it. -/
opaque Config.tAction : ActionKind → ℚ≥0

/-- FREE VALUE: what RIB cell (slot, column) holds after the n-th reset, until it is written (10_state.md R35, U1, log 6). -/
opaque Config.ribAtReset : Nat → Fin 4 → Fin 64 → Pixel

/-- FREE VALUE: the PPB byte (plane, chain column) after the n-th reset, until the first PACK (10_state.md R36, U2, log 7). -/
opaque Config.ppbAtReset : Nat → Fin 3 → Fin 128 → Byte

/-- FREE VALUE: the panel's latched word at a chain column after the n-th reset, before its first latch
(42_matrix_driver.md R103, U3, U6, log 8). -/
opaque Config.latchAtReset : Nat → Fin 128 → DataWord

/-- FREE VALUE: the words that the n-th reset leaves in the panel's shift list where it cut a sequence short
(70_reset_and_hazards.md R120, U6, U7, log 18). -/
opaque Config.shiftListAtReset : Nat → List DataWord

end Sys2Proof
end

