-- ==== Sys2Proof/Machine/State.lean ====
section
/-! DEFINITION. The state of the block as plain data (10_state.md), the model's records (R34), the host's side of the ports
(log 10), and the state after reset. -/

namespace Sys2Proof.Machine

/-- The reasons the block can stop with a fault: none. "No command raises an exception, in any state, with any operand"
(60_exceptions.md R107). -/
inductive Fault
deriving DecidableEq, Repr

/-- The reasons the model can refuse. -/
inductive Refusal where
  /-- Raised by an arm of `exec` whose command has no meaning yet; no arm does so. Safe. -/
  | notModelled (mnemonic : String)
deriving DecidableEq, Repr

/-- One pin action (42_matrix_driver.md R86). -/
inductive PinAction where
  /-- Set the logical output-enable. -/
  | setOE (v : Bool)
  /-- Drive the row-address lines. -/
  | setRow (a : ScanAddr)
  /-- Present `d` on the data lines and pulse the shift clock once. -/
  | shift (d : DataWord)
  /-- Pulse the latch line once. -/
  | pulseLatch
  /-- Let `n` delay units pass with no pin change. -/
  | wait (n : Nat)
deriving DecidableEq, Repr

/-- The phases of the sequencer (10_state.md R28). -/
inductive Phase where
  | idle
  | blankIn
  | setRow
  | shift
  | latch
  | on
  | expose
  | off
deriving DecidableEq, Repr

/-- The sequencer registers (10_state.md R28). `plane` takes the values 0 to 2 only (log 13). -/
structure Seq where
  phase : Phase
  addr  : ScanAddr
  plane : Fin 3
  col   : BitVec 7
  timer : Nat
deriving DecidableEq, Repr

/-- The output pins that are held (10_state.md R31, R32). `oe` is the logical output-enable, true = lit (00_scope.md R16). -/
structure Pins where
  row  : ScanAddr
  data : DataWord
  clk  : Bool
  lat  : Bool
  oe   : Bool
deriving DecidableEq, Repr

/-- MODEL'S OWN (log 10): what the host will do on the block's two inputs in the coming steps. `words` is the command port,
oldest first: `some w` is the word `w` with valid = 1, held until it is accepted (30_encoding.md R59), and `none` is one step
with valid = 0; past its end valid stays 0. `resets` is the level of the reset input in the coming steps, nearest first
(70_reset_and_hazards.md R119); past its end it is not asserted. -/
structure HostPort where
  words  : List (Option Word)
  resets : List Bool
deriving DecidableEq, Repr

/-- The row input buffer: 4 slots × 64 columns (10_state.md R23). -/
abbrev Rib := Grid Pixel 4 64

/-- The packed plane buffer: 3 planes × 128 chain columns (10_state.md R24). -/
abbrev Ppb := Grid Byte 3 128

/-- The whole state (10_state.md R19 and its table). The fields after `pins` are no hardware state: `stale`, `undef`,
`ribWritten` and `trace` are the records of R34, `port` is the host's side (log 10) and `resets` counts the resets after the
first, so that each leaves fresh unspecified contents in RIB and PPB (log 9), and `cutShort` says that the latest reset left
the panel with what a sequence cut short had shifted (log 24). -/
structure State where
  rib        : Rib
  ppb        : Ppb
  dirty      : BitVec 64
  seq        : Seq
  fresh      : Bool
  pins       : Pins
  stale      : Bool
  undef      : Bool
  ribWritten : Grid Bool 4 64
  trace      : List PinAction
  port       : HostPort
  resets     : Nat
  cutShort   : Bool
deriving DecidableEq, Repr

/-- The sequencer after reset (10_state.md R38). -/
def Seq.reset : Seq where
  phase := .idle
  addr  := 0
  plane := 0
  col   := 0
  timer := 0

/-- The pins after reset and while reset is held (10_state.md R40). -/
def Pins.reset : Pins where
  row  := 0
  data := 0
  clk  := false
  lat  := false
  oe   := false

/-- Nothing presented, reset not asserted. -/
def HostPort.quiet : HostPort where
  words  := []
  resets := []

/-- The state that the `n`-th reset leaves (10_state.md R35 to R40), with a quiet host, where it cut no sequence short. RIB and PPB hold free values
(log 6, log 7). -/
def State.resetAt (n : Nat) : State where
  rib        := Vector.ofFn fun k => Vector.ofFn fun x => Config.ribAtReset n k x
  ppb        := Vector.ofFn fun p => Vector.ofFn fun j => Config.ppbAtReset n p j
  dirty      := 0
  seq        := Seq.reset
  fresh      := false
  pins       := Pins.reset
  stale      := false
  undef      := false
  ribWritten := Vector.replicate 4 (Vector.replicate 64 false)
  trace      := []
  port       := HostPort.quiet
  resets     := n
  cutShort   := false

/-- The block right after reset (70_reset_and_hazards.md R119). -/
def State.reset : State := State.resetAt 0

end Sys2Proof.Machine
end

