-- ==== Sys2Proof/Machine/Flags.lean ====
section
/-! DEFINITION. The flags: the `ready` output, `fresh`, and the sticky hazard records `stale` and `undef`. -/

namespace Sys2Proof.Machine

/-- `ready = (seq.phase == IDLE)`, an output, not a stored bit (10_state.md R29). -/
def State.ready (s : State) : Bool := decide (s.seq.phase = .idle)

/-- Some RIB cell has not been written since reset (60_exceptions.md R109). -/
def someUnwritten (w : Grid Bool 4 64) : Bool :=
  decide (∃ k : Fin 4, ∃ x : Fin 64, w[k][x] = false)

/-- `if exists k, x with ribWritten[k][x] == 0: record(undef)` (41_packer.md R79). -/
def recordUndef (s : State) : State := { s with undef := s.undef || someUnwritten s.ribWritten }

/-- `if fresh == 0: record(stale)` (42_matrix_driver.md R93). -/
def recordStale (s : State) : State := { s with stale := s.stale || !s.fresh }

/-- `fresh <- v` (10_state.md R30). -/
def setFresh (v : Bool) (s : State) : State := { s with fresh := v }

end Sys2Proof.Machine
end

