-- ==== Sys2Proof/Machine/Operands.lean ====
section
/-! DEFINITION. The operand forms: how a command's fields select cells, quarters, channels, chain columns and rows. -/

namespace Sys2Proof.Machine

/-- `slot = zext(cmd[25:24])` ∈ [0,3] (30_encoding.md R62). -/
def slotIndex (slot : BitVec 2) : Fin 4 := slot.toFin

/-- `col = zext(cmd[21:16])` ∈ [0,63] (30_encoding.md R62). -/
def colIndex (col : BitVec 6) : Fin 64 := col.toFin

/-- `addr = zext(cmd[3:0])` ∈ [0,15] (30_encoding.md R62). -/
def addrIndex (addr : ScanAddr) : Fin 16 := addr.toFin

/-- The chain column as an index, 0 to 127 (10_state.md R28). -/
def chainIndex (col : BitVec 7) : Fin 128 := col.toFin

/-- `x.ch[c]`: channel 0 is red, 1 green, 2 blue (10_state.md R22). -/
def channel (x : Pixel) (c : Fin 3) : BitVec 3 :=
  match c with
  | 0 => x.r
  | 1 => x.g
  | 2 => x.b

/-- The 9-bit packed form of a pixel, `{b[2:0], g[2:0], r[2:0]}` (10_state.md R22). -/
def pixelBits (x : Pixel) : BitVec 9 := x.b.setWidth 9 <<< 6 ||| x.g.setWidth 9 <<< 3 ||| x.r.setWidth 9

/-- `RIB[k][x] <- v` of any 4 × 64 store (00_scope.md R18). -/
def setCell {α : Type} (g : Grid α 4 64) (k : Fin 4) (x : Fin 64) (v : α) : Grid α 4 64 :=
  g.set k (g[k].set x v)

/-- `D[16*q + 15 : 16*q] <- value` (40_buffer_commands.md R73, 20_memory.md R46). -/
def setQuarter (d : BitVec 64) (q : BitVec 2) (value : BitVec 16) : BitVec 64 :=
  (d &&& ~~~(0xFFFF#64 <<< (16 * q.toNat))) ||| (value.setWidth 64 <<< (16 * q.toNat))

/-- The RIB slot of half `h`, sub-row `s`: `k = 2*h + s` (10_state.md R23). -/
def slotOf (h s : Fin 2) : Fin 4 := ⟨2 * h.val + s.val, by omega⟩

/-- The half that chain column `j` belongs to: `j div 64` (41_packer.md R78). -/
def halfOf (j : Fin 128) : Fin 2 := ⟨j.val / 64, by omega⟩

/-- The position of chain column `j` in its half: `j mod 64` (41_packer.md R78). -/
def posOf (j : Fin 128) : Fin 64 := ⟨j.val % 64, by omega⟩

/-- The chain column at position `x` of half `h`: `64*h + x` (41_packer.md R74). -/
def chainCol (h : Fin 2) (x : Fin 64) : Fin 128 := ⟨64 * h.val + x.val, by omega⟩

/-- The six data bits `PPB[p][j][5:0]` that the sequencer shifts (42_matrix_driver.md R91). -/
def ppbData (P : Ppb) (p : Fin 3) (j : Fin 128) : DataWord := (P[p][j]).extractLsb' 0 6

/-- Bit `a` of the address mask: some logical row that scan address `a` serves is dirty (42_matrix_driver.md R94). -/
def addrDirty (m : PixelMap) (d : BitVec 64) (a : Fin 16) : Bool :=
  d.getLsbD (m.rowMap a 0 0) || d.getLsbD (m.rowMap a 0 1) || d.getLsbD (m.rowMap a 1 0) || d.getLsbD (m.rowMap a 1 1)

/-- The 16-bit address mask (42_matrix_driver.md R94). -/
def addrMask (m : PixelMap) (d : BitVec 64) : BitVec 16 :=
  (List.finRange 16).foldl (fun out a => out ||| (BitVec.ofBool (addrDirty m d a)).setWidth 16 <<< a.val) 0

end Sys2Proof.Machine
end

