-- ==== Sys2Proof/Machine/Ops.lean ====
section
/-! DEFINITION. The named operations on the state: accepting a command, emitting a pin action, starting and stepping the
sequencer, taking reset, and the two input ports. The block takes no exception and has no return from one
(60_exceptions.md R107, R112): reset is the only event that leaves the ordinary order. -/

namespace Sys2Proof.Machine

/-- Acceptance of a command whose rule is `f`: the rule runs when ready = 1; while ready = 0 the block does not see the
command (30_encoding.md R59, log 11). -/
def accept (f : State → State) (s : State) : Host.Outcome State Fault Refusal :=
  .next (if s.ready then f s else s)

/-- `RIB[k][x] <- v` with the written bit of the cell (40_buffer_commands.md R71). -/
def writeCell (k : Fin 4) (x : Fin 64) (v : Pixel) (s : State) : State :=
  { s with rib := setCell s.rib k x v, ribWritten := setCell s.ribWritten k x true }

/-- Every RIB cell (0,0,0) and written (40_buffer_commands.md R72). -/
def clearCells (s : State) : State :=
  { s with
    rib := Vector.replicate 4 (Vector.replicate 64 ⟨0, 0, 0⟩)
    ribWritten := Vector.replicate 4 (Vector.replicate 64 true) }

/-- `DIRTY[16*q + 15 : 16*q] <- value` (40_buffer_commands.md R73). -/
def writeQuarter (q : BitVec 2) (value : BitVec 16) (s : State) : State :=
  { s with dirty := setQuarter s.dirty q value }

/-- The pins after an action (42_matrix_driver.md R87): a Shift ends with clk low again, a PulseLatch with lat low again. -/
def pinsAfter (p : Pins) : PinAction → Pins
  | .setOE v => { p with oe := v }
  | .setRow a => { p with row := a }
  | .shift d => { p with data := d, clk := false }
  | .pulseLatch => { p with lat := false }
  | .wait _ => p

/-- The successive pin levels within an action, in order (42_matrix_driver.md R87): data before the rising clock edge, the
edge, the clock low again; the latch high, then low. -/
def pinsDuring (p : Pins) : PinAction → List Pins
  | .setOE v => [{ p with oe := v }]
  | .setRow a => [{ p with row := a }]
  | .shift d =>
    [{ p with data := d }, { p with data := d, clk := true }, { p with data := d, clk := false }]
  | .pulseLatch => [{ p with lat := true }, { p with lat := false }]
  | .wait _ => []

/-- The level of the electrical output-enable pin (00_scope.md R16). -/
def oeLevel (activeLow : Bool) (p : Pins) : Bool := if activeLow then !p.oe else p.oe

/-- The level of the electrical output-enable pin of the modelled block (00_scope.md R16, log 4). -/
def State.oePin (s : State) : Bool := oeLevel Config.oePinActiveLow s.pins

/-- `emit(act)`: append the action to the trace and perform its pin effect (00_scope.md R18). -/
def emit (act : PinAction) (s : State) : State :=
  { s with pins := pinsAfter s.pins act, trace := s.trace ++ [act] }

/-- `exposureDuration(p) = BASE_DELAY * 2^p` (42_matrix_driver.md R89). -/
def exposureDuration (baseDelay : Nat) (p : Fin 3) : Nat := baseDelay * 2 ^ p.val

/-- Acceptance of RENDER `a` (42_matrix_driver.md R96): records stale, clears fresh, loads the sequencer; emits nothing. -/
def startSequence (a : ScanAddr) (s : State) : State :=
  let t := setFresh false (recordStale s)
  { t with seq := { t.seq with addr := a, plane := 0, col := 0, phase := .blankIn } }

/-- One step of the sequencer, one case per row of the table of 42_matrix_driver.md R96. IDLE emits nothing and stays. The
table's rows for EXPOSE are timer > 1 and timer = 1; timer 0 is never reached (log 12). -/
def sequencerStep (baseDelay : Nat) (s : State) : State :=
  match s.seq.phase with
  | .idle => s
  | .blankIn =>
    let t := emit (.setOE false) s
    { t with seq := { t.seq with phase := .setRow } }
  | .setRow =>
    let t := emit (.setRow s.seq.addr) s
    { t with seq := { t.seq with phase := .shift } }
  | .shift =>
    let t := emit (.shift (ppbData s.ppb s.seq.plane (chainIndex s.seq.col))) s
    if s.seq.col < 127#7 then { t with seq := { t.seq with col := s.seq.col + 1 } }
    else { t with seq := { t.seq with col := 0, phase := .latch } }
  | .latch =>
    let t := emit .pulseLatch s
    { t with seq := { t.seq with phase := .on } }
  | .on =>
    let t := emit (.setOE true) s
    { t with seq := { t.seq with timer := exposureDuration baseDelay s.seq.plane, phase := .expose } }
  | .expose =>
    let t := emit (.wait 1) s
    if 1 < s.seq.timer then { t with seq := { t.seq with timer := s.seq.timer - 1 } }
    else { t with seq := { t.seq with timer := 0, phase := .off } }
  | .off =>
    let t := emit (.setOE false) s
    if s.seq.plane < 2 then { t with seq := { t.seq with plane := s.seq.plane + 1, phase := .shift } }
    else { t with seq := { t.seq with plane := 0, phase := .idle } }

/-- The reset input is asserted on the coming step. -/
def resetAsserted (s : State) : Bool := s.port.resets.headD false

/-- The word accepted on the coming step, if any: valid = 1 and ready = 1 (30_encoding.md R59). -/
def acceptedWord (s : State) : Option Word :=
  if s.ready then s.port.words.headD none else none

/-- One step of the host's side in which its word is accepted. -/
def portAccepted (p : HostPort) : HostPort := { words := p.words.tail, resets := p.resets.tail }

/-- One step of the host's side in which no word is accepted: a presented word is held, and a step with valid = 0 passes
(30_encoding.md R59). -/
def portWaited (p : HostPort) : HostPort :=
  { words := match p.words with
      | none :: ws => ws
      | ws => ws
    resets := p.resets.tail }

/-- The state with its host side moved on by a step that accepts the word. -/
def takeWord (s : State) : State := { s with port := portAccepted s.port }

/-- The state with its host side moved on by a step that accepts nothing. -/
def passStep (s : State) : State := { s with port := portWaited s.port }

/-- A reset on this step leaves the panel with what a sequence cut short had shifted: it cuts a running sequence short, or an
earlier reset did and no action has been emitted since, as while reset is held (70_reset_and_hazards.md R120, U6, log 24). -/
def cutsShort (s : State) : Bool := !s.ready || (s.cutShort && s.trace.isEmpty)

/-- Reset asserted on this step: every state element takes its reset value and a running sequence ends at once
(70_reset_and_hazards.md R119, R120). Nothing is accepted; the host's side moves on (log 14). -/
def takeReset (s : State) : State :=
  { State.resetAt (s.resets + 1) with port := portWaited s.port, cutShort := cutsShort s }

/-- Put a word on the command port so that the very next step accepts it: presented first, reset not asserted on that step,
and the sequencer idle (ready = 1). -/
def presentWord (w : Word) (s : State) : State :=
  { s with
    seq := { s.seq with phase := .idle }
    port := { words := some w :: s.port.words, resets := false :: s.port.resets } }

end Sys2Proof.Machine
end

