-- ==== Sys2Proof/Machine/Buffer.lean ====
section
/-! DEFINITION. The buffer-loading commands NOP, WRPIX, CLRROWS, WRDIRTY (40_buffer_commands.md) and the reserved opcodes. -/

namespace Sys2Proof.Machine

/-- NOP: `skip` (40_buffer_commands.md R70). -/
def execNop (s : State) : Host.Outcome State Fault Refusal := accept id s

/-- WRPIX: write one RIB cell and its written bit (40_buffer_commands.md R71). -/
def execWrpix (slot : BitVec 2) (col : BitVec 6) (r g b : BitVec 3) (s : State) : Host.Outcome State Fault Refusal :=
  accept (writeCell (slotIndex slot) (colIndex col) ⟨r, g, b⟩) s

/-- CLRROWS: clear every RIB cell (40_buffer_commands.md R72). -/
def execClrrows (s : State) : Host.Outcome State Fault Refusal := accept clearCells s

/-- WRDIRTY: write one 16-bit quarter of DIRTY (40_buffer_commands.md R73). -/
def execWrdirty (q : BitVec 2) (value : BitVec 16) (s : State) : Host.Outcome State Fault Refusal :=
  accept (writeQuarter q value) s

/-- Reserved opcode 0x7: executes as NOP (30_encoding.md R65). -/
def execReserved7 (s : State) : Host.Outcome State Fault Refusal := accept id s

/-- Reserved opcodes 0x8 to 0xF: execute as NOP (30_encoding.md R65). -/
def execReserved8f (_op : BitVec 4) (s : State) : Host.Outcome State Fault Refusal := accept id s

end Sys2Proof.Machine
end

