-- ==== Sys2Proof/Machine/Driver.lean ====
section
/-! DEFINITION. The matrix driver's commands RENDER and RENDERD (42_matrix_driver.md), at the action level: their acceptance.
The sequencer then emits the sequence, one action a step (`sequencerStep`, R96). -/

namespace Sys2Proof.Machine

/-- RENDER: acceptance starts the sequence of one scan address (42_matrix_driver.md R93, R96). -/
def execRender (addr : BitVec 4) (s : State) : Host.Outcome State Fault Refusal := accept (startSequence addr) s

/-- The rule of RENDERD (42_matrix_driver.md R95) for a pixel map: as RENDER when the address is dirty, else nothing. -/
def startIfDirty (m : PixelMap) (a : ScanAddr) (s : State) : State :=
  if (addrMask m s.dirty).getLsbD (addrIndex a) then startSequence a s else s

/-- RENDERD: drive one scan address only if it is dirty (42_matrix_driver.md R95). -/
def execRenderd (addr : BitVec 4) (s : State) : Host.Outcome State Fault Refusal :=
  accept (startIfDirty Config.pixelMap addr) s

end Sys2Proof.Machine
end

