-- ==== Sys2Proof/Machine/Packer.lean ====
section
/-! DEFINITION. The bit-plane packer: the packing function, its inverse, and PACK (41_packer.md). -/

namespace Sys2Proof.Machine

/-- A byte whose bit `i` is `v` and whose other bits are 0. -/
def byteBit (v : Bool) (i : Nat) : Byte := (BitVec.ofBool v).setWidth 8 <<< i

/-- The packed byte of a top and a bottom pixel for plane `p` (41_packer.md R76, R77): bit `3*s + c` is bit `p` of channel `c`
of sub-row `s`, and bits 7:6 are 0. -/
def packByte (top bottom : Pixel) (p : Fin 3) : Byte :=
  byteBit (top.r.getLsbD p) 0 ||| byteBit (top.g.getLsbD p) 1 ||| byteBit (top.b.getLsbD p) 2
    ||| byteBit (bottom.r.getLsbD p) 3 ||| byteBit (bottom.g.getLsbD p) 4 ||| byteBit (bottom.b.getLsbD p) 5

/-- The RIB pixel that chain column `j` shows in sub-row `s` (41_packer.md R78). -/
def ribPixel (m : PixelMap) (R : Rib) (j : Fin 128) (s : Fin 2) : Pixel :=
  R[slotOf (halfOf j) s][m.colMap (halfOf j) (posOf j)]

/-- The packing function, total and pure (41_packer.md R78). -/
def packRows (m : PixelMap) (R : Rib) : Ppb :=
  Vector.ofFn fun p => Vector.ofFn fun j => packByte (ribPixel m R j 0) (ribPixel m R j 1) p

/-- The position in half `h`'s stretch of the chain that shows logical column `y` (41_packer.md R82, inverse of `colMap`). -/
def colPos (m : PixelMap) (h : Fin 2) (y : Fin 64) : Fin 64 :=
  ((List.finRange 64).find? fun x => decide (m.colMap h x = y)).getD 0

/-- `Σ_{p=0..2} PPB[p][j][3*s + c] << p` (41_packer.md R82). -/
def unpackChannel (P : Ppb) (j : Fin 128) (s : Fin 2) (c : Fin 3) : BitVec 3 :=
  let bit (p : Fin 3) : BitVec 3 := (BitVec.ofBool ((P[p][j]).getLsbD (3 * s.val + c.val))).setWidth 3 <<< p.val
  bit 0 ||| bit 1 ||| bit 2

/-- The inverse of packing (41_packer.md R82): the cell of slot `2*h + s` at logical column `y`. -/
def unpackRows (m : PixelMap) (P : Ppb) : Rib :=
  Vector.ofFn fun k => Vector.ofFn fun y =>
    let h : Fin 2 := ⟨k.val / 2, by omega⟩
    let s : Fin 2 := ⟨k.val % 2, by omega⟩
    let j := chainCol h (colPos m h y)
    ⟨unpackChannel P j s 0, unpackChannel P j s 1, unpackChannel P j s 2⟩

/-- The rule of PACK (41_packer.md R79) for a pixel map. -/
def packBuffer (m : PixelMap) (s : State) : State :=
  let t := recordUndef s
  setFresh true { t with ppb := packRows m s.rib }

/-- PACK: pack the row input buffer into the packed plane buffer (41_packer.md R79). -/
def execPack (s : State) : Host.Outcome State Fault Refusal := accept (packBuffer Config.pixelMap) s

end Sys2Proof.Machine
end

