-- ==== Sys2Proof/Machine/Dispatch.lean ====
section
/-! DEFINITION. The meaning of each command, one arm per constructor of `Instr`. -/

namespace Sys2Proof.Machine

def exec (i : Instr) (s : State) : Host.Outcome State Fault Refusal :=
  match i with
  | .nop => Sys2Proof.Machine.execNop s
  | .wrpix slot col r g b => Sys2Proof.Machine.execWrpix slot col r g b s
  | .clrrows => Sys2Proof.Machine.execClrrows s
  | .pack => Sys2Proof.Machine.execPack s
  | .render addr => Sys2Proof.Machine.execRender addr s
  | .wrdirty q value => Sys2Proof.Machine.execWrdirty q value s
  | .renderd addr => Sys2Proof.Machine.execRenderd addr s
  | .reserved7 => Sys2Proof.Machine.execReserved7 s
  | .reserved8f op => Sys2Proof.Machine.execReserved8f op s

end Sys2Proof.Machine
end

