-- ==== Sys2Proof/Machine/Step.lean ====
section
/-! DEFINITION. One step of the block: reset first, else acceptance of a command when ready, else one sequencer step. -/

namespace Sys2Proof.Machine

/-- One step. Reset has priority over everything (60_exceptions.md R111, 70_reset_and_hazards.md R120); a word presented while
ready = 1 is accepted and its command's rule runs (30_encoding.md R59); otherwise the sequencer takes one step, which in IDLE
changes nothing (42_matrix_driver.md R96). -/
def step (s : State) : Host.Outcome State Fault Refusal :=
  if resetAsserted s then .next (takeReset s)
  else
    match acceptedWord s with
    | some w => exec (decode w) (takeWord s)
    | none => .next (sequencerStep Config.baseDelay (passStep s))

/-- The state in which the very next step accepts the opcode-table word `w` (log 10, log 23). -/
def State.withFetchWord (s : State) (nbits w : Nat) : State := presentWord (tableWord nbits w) s

end Sys2Proof.Machine
end

