-- ==== Sys2Proof/Machine/Assembler.lean ====
section
/-! DEFINITION. The assembler: statements with range-checked operands, the pseudo-instructions, and the line syntax
(30_encoding.md R68, R69; what R68 leaves open of the text is log 22). -/

namespace Sys2Proof.Machine

/-- The red, green and blue of a pixel operand, before the range check. -/
structure PixelOperand where
  r : Nat
  g : Nat
  b : Nat
deriving DecidableEq, Repr

/-- One assembler statement, its operands not yet range-checked (30_encoding.md R68, R69). -/
inductive AsmStmt where
  | nop
  | wrpix (slot col r g b : Nat)
  | clrrows
  | pack
  | render (addr : Nat)
  | wrdirty (q value : Nat)
  | renderd (addr : Nat)
  | loadrow (k : Nat) (pixels : List PixelOperand)
  | setdirty (m : Nat)
  | scan (a : Nat)
  | scand (a : Nat)
deriving DecidableEq, Repr

/-- `WRPIX slot, col, r, g, b` with its range check (30_encoding.md R68). -/
def asmWrpix (slot col r g b : Nat) : Option Instr :=
  if slot ≤ 3 ∧ col ≤ 63 ∧ r ≤ 7 ∧ g ≤ 7 ∧ b ≤ 7 then
    some (.wrpix (BitVec.ofNat 2 slot) (BitVec.ofNat 6 col) (BitVec.ofNat 3 r) (BitVec.ofNat 3 g) (BitVec.ofNat 3 b))
  else none

/-- `RENDER addr` with its range check. -/
def asmRender (addr : Nat) : Option Instr := if addr ≤ 15 then some (.render (BitVec.ofNat 4 addr)) else none

/-- `RENDERD addr` with its range check. -/
def asmRenderd (addr : Nat) : Option Instr := if addr ≤ 15 then some (.renderd (BitVec.ofNat 4 addr)) else none

/-- `WRDIRTY q, value` with its range check. -/
def asmWrdirty (q value : Nat) : Option Instr :=
  if q ≤ 3 ∧ value ≤ 0xFFFF then some (.wrdirty (BitVec.ofNat 2 q) (BitVec.ofNat 16 value)) else none

/-- The commands of `LOADROW k`: WRPIX of columns 0 to 63 in increasing order (30_encoding.md R69). -/
def asmLoadrow (k : Nat) (pixels : List PixelOperand) : Option (List Instr) :=
  if pixels.length = 64 then pixels.zipIdx.mapM fun q => asmWrpix k q.2 q.1.r q.1.g q.1.b else none

/-- The commands of `SETDIRTY m`: the four quarters, lowest first (30_encoding.md R69). -/
def asmSetdirty (m : Nat) : Option (List Instr) :=
  if m < 2 ^ 64 then
    [0, 1, 2, 3].mapM fun q => asmWrdirty q (m / 2 ^ (16 * q) % 2 ^ 16)
  else none

/-- The commands a statement stands for; `none` is an assembly error (30_encoding.md R68: an operand outside its field's range
is an error, the assembler never truncates). -/
def expand : AsmStmt → Option (List Instr)
  | .nop => some [.nop]
  | .wrpix slot col r g b => (asmWrpix slot col r g b).map fun i => [i]
  | .clrrows => some [.clrrows]
  | .pack => some [.pack]
  | .render addr => (asmRender addr).map fun i => [i]
  | .wrdirty q value => (asmWrdirty q value).map fun i => [i]
  | .renderd addr => (asmRenderd addr).map fun i => [i]
  | .loadrow k pixels => asmLoadrow k pixels
  | .setdirty m => asmSetdirty m
  | .scan a => (asmRender a).map fun i => [.pack, i]
  | .scand a => (asmRenderd a).map fun i => [.pack, i]

/-- The words of a statement. -/
def assemble (t : AsmStmt) : Option (List Word) := (expand t).map fun is => is.map encode

/-- A space or a tab (log 22). -/
def isBlank (c : Char) : Bool := c == ' ' || c == '\t'

/-- The text before the comment, which `;` starts (30_encoding.md R68). -/
def dropComment (line : List Char) : List Char := line.takeWhile fun c => c != ';'

/-- The text without blanks at either end. -/
def trimBlanks (t : List Char) : List Char := ((t.dropWhile isBlank).reverse.dropWhile isBlank).reverse

/-- The value of a digit in a base up to 16. -/
def digitValue (base : Nat) (c : Char) : Option Nat :=
  let v : Option Nat :=
    if '0' ≤ c ∧ c ≤ '9' then some (c.toNat - 48)
    else if 'a' ≤ c ∧ c ≤ 'f' then some (c.toNat - 87)
    else if 'A' ≤ c ∧ c ≤ 'F' then some (c.toNat - 55)
    else none
  v.bind fun n => if n < base then some n else none

/-- The value of a nonempty run of digits. -/
def digitsValue (base : Nat) (ds : List Char) : Option Nat :=
  if ds.isEmpty then none
  else ds.foldl (fun acc c => acc.bind fun n => (digitValue base c).map fun d => n * base + d) (some 0)

/-- A number, decimal or `0x` hexadecimal (30_encoding.md R68). -/
def parseNumber (t : List Char) : Option Nat :=
  match t with
  | '0' :: 'x' :: ds => digitsValue 16 ds
  | ds => digitsValue 10 ds

/-- Split at the commas that stand outside parentheses; `depth` counts the open ones, `acc` holds the operand so far,
reversed. -/
def splitOperands : List Char → Nat → List Char → List (List Char)
  | [], _, acc => [acc.reverse]
  | ',' :: rest, 0, acc => acc.reverse :: splitOperands rest 0 []
  | '(' :: rest, depth, acc => splitOperands rest (depth + 1) ('(' :: acc)
  | ')' :: rest, depth, acc => splitOperands rest (depth - 1) (')' :: acc)
  | c :: rest, depth, acc => splitOperands rest depth (c :: acc)

/-- The operands of a statement: none where the text is empty. -/
def operandTexts (t : List Char) : List (List Char) :=
  if (trimBlanks t).isEmpty then [] else (splitOperands t 0 []).map trimBlanks

/-- A pixel operand `(r,g,b)` (30_encoding.md R69). -/
def parsePixel (t : List Char) : Option PixelOperand :=
  match t with
  | '(' :: rest =>
    match rest.reverse with
    | ')' :: inner =>
      match (operandTexts inner.reverse).mapM parseNumber with
      | some [r, g, b] => some ⟨r, g, b⟩
      | _ => none
    | _ => none
  | _ => none

/-- A statement from its mnemonic and operand texts. -/
def parseStmt (mnemonic : List Char) (ops : List (List Char)) : Option AsmStmt :=
  if mnemonic = ['L', 'O', 'A', 'D', 'R', 'O', 'W'] then
    match ops with
    | k :: ps =>
      match parseNumber k, ps.mapM parsePixel with
      | some k, some ps => some (.loadrow k ps)
      | _, _ => none
    | [] => none
  else
    match ops.mapM parseNumber with
    | none => none
    | some ns =>
      if mnemonic = ['N', 'O', 'P'] then (if ns = [] then some .nop else none)
      else if mnemonic = ['C', 'L', 'R', 'R', 'O', 'W', 'S'] then (if ns = [] then some .clrrows else none)
      else if mnemonic = ['P', 'A', 'C', 'K'] then (if ns = [] then some .pack else none)
      else if mnemonic = ['W', 'R', 'P', 'I', 'X'] then
        (match ns with
        | [slot, col, r, g, b] => some (.wrpix slot col r g b)
        | _ => none)
      else if mnemonic = ['W', 'R', 'D', 'I', 'R', 'T', 'Y'] then
        (match ns with
        | [q, value] => some (.wrdirty q value)
        | _ => none)
      else
        match ns with
        | [n] =>
          if mnemonic = ['R', 'E', 'N', 'D', 'E', 'R'] then some (.render n)
          else if mnemonic = ['R', 'E', 'N', 'D', 'E', 'R', 'D'] then some (.renderd n)
          else if mnemonic = ['S', 'E', 'T', 'D', 'I', 'R', 'T', 'Y'] then some (.setdirty n)
          else if mnemonic = ['S', 'C', 'A', 'N'] then some (.scan n)
          else if mnemonic = ['S', 'C', 'A', 'N', 'D'] then some (.scand n)
          else none
        | _ => none

/-- The words of one source line, "one command per line" (30_encoding.md R68): none for a line without a command. The outer
`none` is an assembly error. -/
def assembleLine (line : List Char) : Option (List Word) :=
  let t := trimBlanks (dropComment line)
  if t.isEmpty then some []
  else (parseStmt (t.takeWhile fun c => !isBlank c) (operandTexts (t.dropWhile fun c => !isBlank c))).bind assemble

/-- The words of a program, line after line; `none` is an assembly error. -/
def assembleProgram (lines : List (List Char)) : Option (List Word) := (lines.mapM assembleLine).map List.flatten

end Sys2Proof.Machine
end

