-- ==== Sys2Proof/Machine/CommandLevel.lean ====
section
/-! DEFINITION. The command level (00_scope.md R7): each accepted command is one transition, and RENDER emits its whole finite
action sequence at once. `step` and `exec` are the action level; 42_matrix_driver.md R88 says how the two agree. -/

namespace Sys2Proof.Machine

/-- The Shift actions of one plane: columns 0 to 127 in increasing order (42_matrix_driver.md R91). -/
def planeShifts (P : Ppb) (p : Fin 3) : List PinAction :=
  (List.finRange 128).map fun j => .shift (ppbData P p j)

/-- The action sequence for driving scan address `a` from packed planes `P` (42_matrix_driver.md R92). -/
def renderTrace (baseDelay : Nat) (a : ScanAddr) (P : Ppb) : List PinAction :=
  [.setOE false, .setRow a] ++
    (List.finRange 3).flatMap fun p =>
      planeShifts P p ++ [.pulseLatch, .setOE true, .wait (exposureDuration baseDelay p), .setOE false]

/-- The same sequence as the sequencer emits it, one `Wait(1)` per delay unit (42_matrix_driver.md R88, R96). -/
def sequencerTrace (baseDelay : Nat) (a : ScanAddr) (P : Ppb) : List PinAction :=
  [.setOE false, .setRow a] ++
    (List.finRange 3).flatMap fun p =>
      planeShifts P p ++ [.pulseLatch, .setOE true] ++ List.replicate (exposureDuration baseDelay p) (.wait 1)
        ++ [.setOE false]

/-- Put an action before a list whose adjacent Waits are merged, merging it too (42_matrix_driver.md R88). -/
def consMerged : PinAction → List PinAction → List PinAction
  | .wait m, .wait n :: rest => .wait (m + n) :: rest
  | a, rest => a :: rest

/-- Merge adjacent Waits: `Wait(m), Wait(n)` is the same observation as `Wait(m + n)` (42_matrix_driver.md R88). -/
def mergeWaits (t : List PinAction) : List PinAction := t.foldr consMerged []

/-- Emit a list of actions in order. -/
def emitAll (acts : List PinAction) (s : State) : State := acts.foldl (fun t a => emit a t) s

/-- RENDER at the command level (42_matrix_driver.md R93). -/
def commandRender (baseDelay : Nat) (a : ScanAddr) (s : State) : State :=
  let t := setFresh false (recordStale s)
  emitAll (renderTrace baseDelay a s.ppb) { t with seq := { t.seq with addr := a } }

/-- RENDERD at the command level (42_matrix_driver.md R95). -/
def commandRenderd (baseDelay : Nat) (m : PixelMap) (a : ScanAddr) (s : State) : State :=
  if (addrMask m s.dirty).getLsbD (addrIndex a) then commandRender baseDelay a s else s

/-- One command as one transition (00_scope.md R7 (a)). -/
def commandTransition (baseDelay : Nat) (m : PixelMap) : Instr → State → State
  | .nop, s => s
  | .wrpix slot col r g b, s => writeCell (slotIndex slot) (colIndex col) ⟨r, g, b⟩ s
  | .clrrows, s => clearCells s
  | .pack, s => packBuffer m s
  | .render addr, s => commandRender baseDelay addr s
  | .wrdirty q value, s => writeQuarter q value s
  | .renderd addr, s => commandRenderd baseDelay m addr s
  | .reserved7, s => s
  | .reserved8f _, s => s

/-- How many steps one sequence takes: 395 non-Wait actions and one `Wait(1)` per delay unit (42_matrix_driver.md R96). -/
def sequenceSteps (baseDelay : Nat) : Nat := 395 + 7 * baseDelay

end Sys2Proof.Machine
end

