-- ==== Sys2Proof/Machine/Observe.lean ====
section
/-! DEFINITION. What is seen from outside: the panel model over a trace (42_matrix_driver.md R103), the logical image and the
rows a host loads for a scan address (41_packer.md R75), and the time a trace takes (70_reset_and_hazards.md R134). None of it
is state of the block (10_state.md R33, log 18). -/

namespace Sys2Proof.Machine

/-- The panel model (42_matrix_driver.md R103): `sr` is SR, the words shifted since the last latch, oldest first, at most 128;
`latched` is L; `exposure a j s c` is the account E of scan address, chain column, sub-row and channel. -/
structure Panel where
  sr       : List DataWord
  latched  : Vector DataWord 128
  exposure : ScanAddr → Fin 128 → Fin 2 → Fin 3 → Nat

/-- The panel after the `n`-th reset (42_matrix_driver.md R103): SR empty, every E entry 0, every latched word unspecified (U3,
log 8); but where that reset cut a sequence short, any SR of at most 128 words (U6, U7, log 18). -/
def panelReset (cutShort : Bool) (n : Nat) : Panel where
  sr       := if cutShort then (Config.shiftListAtReset n).take 128 else []
  latched  := Vector.ofFn (Config.latchAtReset n)
  exposure := fun _ _ _ _ => 0

/-- Append to SR, keeping the 128 most recent words. -/
@[irreducible] def shiftIn (sr : List DataWord) (d : DataWord) : List DataWord :=
  (sr ++ [d]).drop ((sr ++ [d]).length - 128)

/-- `L[j][3*s + c]` as a number, 0 or 1. -/
def latchedBit (L : Vector DataWord 128) (j : Fin 128) (s : Fin 2) (c : Fin 3) : Nat :=
  (L[j].getLsbD (3 * s.val + c.val)).toNat

/-- The panel after one action, given the pins while it happens (42_matrix_driver.md R103). -/
def panelAfter (pins : Pins) (q : Panel) : PinAction → Panel
  | .shift d => { q with sr := shiftIn q.sr d }
  | .pulseLatch =>
    { q with
      latched := if q.sr.length = 128 then Vector.ofFn fun j => q.sr.getD j.val 0 else q.latched
      sr := [] }
  | .wait n =>
    if pins.oe then
      { q with
        exposure := fun a j s c =>
          if a = pins.row then q.exposure a j s c + n * latchedBit q.latched j s c else q.exposure a j s c }
    else q
  | .setOE _ => q
  | .setRow _ => q

/-- The pins and the panel after one action. -/
def observeAction (o : Pins × Panel) (act : PinAction) : Pins × Panel :=
  (pinsAfter o.1 act, panelAfter o.1 o.2 act)

/-- The pins and the panel after a trace. -/
def observe (o : Pins × Panel) (trace : List PinAction) : Pins × Panel := trace.foldl observeAction o

/-- The observation of a block's trace, from its latest reset (42_matrix_driver.md R103). -/
def observation (s : State) : Pins × Panel := observe (Pins.reset, panelReset s.cutShort s.resets) s.trace

/-- A logical image: 64 rows of 64 columns (00_scope.md R12). -/
abbrev Image := Grid Pixel 64 64

/-- The four rows that the RIB must hold for scan address `a`: slot `k` holds row `rowMap(a, k div 2, k mod 2)`, indexed by
logical column (41_packer.md R75). -/
def rowsForAddr (m : PixelMap) (img : Image) (a : ScanAddr) : Rib :=
  Vector.ofFn fun k => img[m.rowMap (addrIndex a) ⟨k.val / 2, by omega⟩ ⟨k.val % 2, by omega⟩]

/-- The trace of a full frame: the 16 scan addresses in increasing order, each driven from its own freshly packed rows
(42_matrix_driver.md R105). -/
def frameTrace (baseDelay : Nat) (m : PixelMap) (img : Image) : List PinAction :=
  (List.finRange 16).flatMap fun a =>
    renderTrace baseDelay (BitVec.ofFin a) (packRows m (rowsForAddr m img (BitVec.ofFin a)))

/-- The delay units of the Waits of a trace. -/
def waitUnits (trace : List PinAction) : Nat :=
  (trace.map fun
    | .wait n => n
    | _ => 0).sum

/-- The delay units for which the panel is lit in a trace that starts with output-enable `oe`. -/
def litUnits : Bool → List PinAction → Nat
  | _, [] => 0
  | _, .setOE v :: rest => litUnits v rest
  | oe, .wait n :: rest => (if oe then n else 0) + litUnits oe rest
  | oe, .setRow _ :: rest => litUnits oe rest
  | oe, .shift _ :: rest => litUnits oe rest
  | oe, .pulseLatch :: rest => litUnits oe rest

/-- The duration of one action, for a given T_ACTION (00_scope.md R17). -/
def actionDuration (tAction : ActionKind → ℚ≥0) : PinAction → ℚ≥0
  | .setOE _ => tAction .setOE
  | .setRow _ => tAction .setRow
  | .shift _ => tAction .shift
  | .pulseLatch => tAction .pulseLatch
  | .wait n => n

/-- The duration of a trace: its exposures plus T_ACTION of its other actions (70_reset_and_hazards.md R134). -/
def traceDuration (tAction : ActionKind → ℚ≥0) (trace : List PinAction) : ℚ≥0 :=
  (trace.map (actionDuration tAction)).sum

end Sys2Proof.Machine
end

