-- ==== Sys2Proof/Safety.lean ====
section
/-! DEFINITION. What counts as a safe run: the shape of every emitted trace (42_matrix_driver.md R99 to R101) and the
invariants of the sequencer that every step keeps. -/

namespace Sys2Proof.Safety

open Sys2Proof.Machine

/-- What a trace has done so far: output-enable, Shifts since the last PulseLatch or SetRow, PulseLatches since the last
SetRow, and delay units since the last SetOE(1). -/
structure Monitor where
  oe      : Bool
  shifts  : Nat
  latches : Nat
  lit     : Nat
deriving DecidableEq, Repr

/-- The monitor at reset. -/
def Monitor.start : Monitor where
  oe      := false
  shifts  := 0
  latches := 0
  lit     := 0

/-- One more action, or `none` where it breaks a rule: SetRow, Shift and PulseLatch only while blanked (R99); a PulseLatch only
after exactly 128 Shifts (R100); SetOE(1) only from blanked; while lit only Waits and the SetOE(0) that ends an exposure of
exactly `exposureDuration` of the plane just latched; a Wait only while lit (R101). -/
def monitorAction (baseDelay : Nat) (m : Monitor) : PinAction → Option Monitor
  | .setRow _ => if m.oe then none else some { m with shifts := 0, latches := 0 }
  | .shift _ => if m.oe then none else some { m with shifts := m.shifts + 1 }
  | .pulseLatch => if m.oe ∨ m.shifts ≠ 128 then none else some { m with shifts := 0, latches := m.latches + 1 }
  | .setOE true => if m.oe then none else some { m with oe := true, lit := 0 }
  | .setOE false =>
    if m.oe ∧ m.lit ≠ baseDelay * 2 ^ (m.latches - 1) then none else some { m with oe := false }
  | .wait n => if m.oe then some { m with lit := m.lit + n } else none

/-- The monitor after a trace, `none` once a rule was broken. -/
def monitorTrace (baseDelay : Nat) (trace : List PinAction) : Option Monitor :=
  trace.foldl (fun m a => m.bind fun m => monitorAction baseDelay m a) (some Monitor.start)

/-- A trace that breaks none of R99, R100, R101. -/
def safeTrace (baseDelay : Nat) (trace : List PinAction) : Prop := (monitorTrace baseDelay trace).isSome

/-- The phases in which the panel is lit. -/
def litPhase : Phase → Bool
  | .expose => true
  | .off => true
  | .idle => false
  | .blankIn => false
  | .setRow => false
  | .shift => false
  | .latch => false
  | .on => false

/-- The phases after SetRow, in which the row lines carry the sequence's address. -/
def addressedPhase : Phase → Bool
  | .idle => false
  | .blankIn => false
  | .setRow => false
  | .shift => true
  | .latch => true
  | .on => true
  | .expose => true
  | .off => true

/-- The sequencer's invariant (10_state.md R21, R28; 42_matrix_driver.md R87, R96): clk and lat rest at 0; the panel is lit
exactly in EXPOSE and OFF; the row lines carry seq.addr once SetRow is emitted; the timer is 1 to exposureDuration(plane) in
EXPOSE and 0 elsewhere; seq.col is 0 outside SHIFT; seq.plane is 0 before the first SHIFT and in IDLE. -/
def seqInv (baseDelay : Nat) (s : State) : Prop :=
  s.pins.clk = false ∧ s.pins.lat = false ∧
  s.pins.oe = litPhase s.seq.phase ∧
  (addressedPhase s.seq.phase = true → s.pins.row = s.seq.addr) ∧
  (if s.seq.phase = .expose then 1 ≤ s.seq.timer ∧ s.seq.timer ≤ exposureDuration baseDelay s.seq.plane
    else s.seq.timer = 0) ∧
  (s.seq.phase ≠ .shift → s.seq.col = 0) ∧
  (addressedPhase s.seq.phase = false → s.seq.plane = 0)

/-- How the monitor of the trace stands in each phase. -/
def monitorFits (baseDelay : Nat) (q : Seq) (m : Monitor) : Prop :=
  m.oe = litPhase q.phase ∧
  match q.phase with
  | .idle => True
  | .blankIn => True
  | .setRow => True
  | .shift => m.shifts = q.col.toNat ∧ m.latches = q.plane.val
  | .latch => m.shifts = 128 ∧ m.latches = q.plane.val
  | .on => m.shifts = 0 ∧ m.latches = q.plane.val + 1
  | .expose =>
    m.shifts = 0 ∧ m.latches = q.plane.val + 1 ∧ m.lit + q.timer = exposureDuration baseDelay q.plane
  | .off => m.shifts = 0 ∧ m.latches = q.plane.val + 1 ∧ m.lit = exposureDuration baseDelay q.plane

/-- The trace emitted so far is safe, and its monitor stands as the sequencer's phase says. -/
def traceInv (baseDelay : Nat) (s : State) : Prop :=
  ∃ m, monitorTrace baseDelay s.trace = some m ∧ monitorFits baseDelay s.seq m

/-- The pins are those the trace leaves, starting from the reset levels (10_state.md R32, R40). -/
def pinsInv (s : State) : Prop := s.pins = s.trace.foldl pinsAfter Pins.reset

/-- The invariant of a run. -/
def runInv (s : State) : Prop :=
  seqInv Config.baseDelay s ∧ traceInv Config.baseDelay s ∧ pinsInv s

/-- `n` steps, stopping at the first fault or refusal: `Host.Core.run` of `Sys2Proof.core`, with the model's own types. -/
def runSteps : Nat → State → Host.Outcome State Fault Refusal
  | 0, s => .next s
  | n + 1, s =>
    match step s with
    | .next t => runSteps n t
    | .fault r => .fault r
    | .refused r => .refused r

/-- No reset in the next `n` steps. -/
def noResetFor (n : Nat) (s : State) : Prop := ∀ k, k < n → s.port.resets.getD k false = false

/-- The Shift actions of a trace since its last PulseLatch or SetRow. -/
def shiftsSince (trace : List PinAction) : Nat :=
  trace.foldl
    (fun n a =>
      match a with
      | .shift _ => n + 1
      | .pulseLatch => 0
      | .setRow _ => 0
      | .setOE _ => n
      | .wait _ => n) 0

/-- An action that may happen only while the panel is blanked (42_matrix_driver.md R99). -/
def needsBlank : PinAction → Bool
  | .setRow _ => true
  | .shift _ => true
  | .pulseLatch => true
  | .setOE _ => false
  | .wait _ => false

end Sys2Proof.Safety
end

