-- ==== Sys2Proof/Certificates/Slice0/Obligations.lean ====
section
/-! DEFINITION. The statements for the provers, from the numbered rules of spec/. -/

open Sys2Proof Sys2Proof.Machine Sys2Proof.Safety

/-! ## Reset and the step -/

/-- What reset leaves, where the spec gives a value (10_state.md R37, R38, R39, R40): ready = 1, a word presented then is
accepted at once, and a RENDERD before any WRDIRTY changes nothing. -/
def Obligations.ResetLeavesTheStatedValues : Prop :=
  State.reset.dirty = 0 ∧
  State.reset.seq = { phase := .idle, addr := 0, plane := 0, col := 0, timer := 0 } ∧ State.reset.ready = true ∧
  State.reset.fresh = false ∧ State.reset.stale = false ∧ State.reset.undef = false ∧
  (∀ (k : Fin 4) (x : Fin 64), State.reset.ribWritten[k][x] = false) ∧ State.reset.trace = [] ∧
  State.reset.pins = { row := 0, data := 0, clk := false, lat := false, oe := false } ∧
  (∀ (w : Word) (ws : List (Option Word)) (rs : List Bool),
    acceptedWord { State.reset with port := { words := some w :: ws, resets := rs } } = some w) ∧
  (∀ a : BitVec 4, exec (.renderd a) State.reset = .next State.reset)

/-- A step with reset asserted, from any state and in any phase, gives every element its reset value, emits nothing and leaves
the block idle and blanked (70_reset_and_hazards.md R119). RIB and PPB hold the free values of one more reset (log 6, 7, 9). -/
def Obligations.ResetStepEndsEverything : Prop :=
  ∀ s : State, resetAsserted s = true →
    ∃ t, step s = .next t ∧
      t.dirty = 0 ∧ t.seq = { phase := .idle, addr := 0, plane := 0, col := 0, timer := 0 } ∧ t.ready = true ∧
      t.fresh = false ∧ t.stale = false ∧ t.undef = false ∧ t.trace = [] ∧
      (∀ (k : Fin 4) (x : Fin 64), t.ribWritten[k][x] = false) ∧
      t.pins = { row := 0, data := 0, clk := false, lat := false, oe := false } ∧
      t.resets = s.resets + 1 ∧
      (∀ (k : Fin 4) (x : Fin 64), t.rib[k][x] = Config.ribAtReset (s.resets + 1) k x) ∧
      (∀ (p : Fin 3) (j : Fin 128), t.ppb[p][j] = Config.ppbAtReset (s.resets + 1) p j) ∧
      t.port.resets = s.port.resets.tail

/-- When reset is not asserted, the block is ready and a word stands on the command port, the step runs exactly the decoded
command, on the state whose host side has moved on (30_encoding.md R59). -/
def Obligations.StepRunsTheDecodedCommand : Prop :=
  ∀ (s : State) (w : Word) (ws : List (Option Word)),
    resetAsserted s = false → s.seq.phase = .idle → s.port.words = some w :: ws →
    step s = exec (decode w) { s with port := { words := ws, resets := s.port.resets.tail } }

/-- While a sequence runs, a step is one sequencer step; the word on the command port is held, neither lost nor reordered
(30_encoding.md R59, 42_matrix_driver.md R97). -/
def Obligations.BusyStepHoldsTheWord : Prop :=
  ∀ (s : State) (w : Word) (ws : List (Option Word)),
    resetAsserted s = false → s.seq.phase ≠ .idle → s.port.words = some w :: ws →
    step s = .next (sequencerStep Config.baseDelay
      { s with port := { words := some w :: ws, resets := s.port.resets.tail } })

/-- In IDLE with no word presented, a step changes nothing but the host's side (42_matrix_driver.md R96). -/
def Obligations.IdleStepChangesNothing : Prop :=
  ∀ s : State, resetAsserted s = false → s.seq.phase = .idle → s.port.words.headD none = none →
    ∃ t, step s = .next t ∧ t = { s with port := { words := s.port.words.tail, resets := s.port.resets.tail } }

/-- No command raises an exception, in any state, with any operand, there is no exception cause at all, and no step stops the
block (60_exceptions.md R107). -/
def Obligations.NothingStopsTheBlock : Prop :=
  (∀ _cause : Fault, False) ∧
  (∀ (i : Instr) (s : State), ∃ t, exec i s = .next t) ∧ (∀ s : State, ∃ t, step s = .next t)

/-- While ready = 0 the block does not see a command: none of its effect happens (30_encoding.md R59; log 11). -/
def Obligations.BusyBlockSeesNoCommand : Prop :=
  ∀ (i : Instr) (s : State), s.seq.phase ≠ .idle → exec i s = .next s

/-! ## The commands: results, frames and completion -/

/-- NOP and the reserved commands change nothing, and so does every word with opcode 0x0 or a reserved opcode, whatever its
other bits (40_buffer_commands.md R70, 30_encoding.md R65). -/
def Obligations.NopAndReservedChangeNothing : Prop :=
  ∀ s : State,
    exec .nop s = .next s ∧ exec .reserved7 s = .next s ∧ (∀ op, exec (.reserved8f op) s = .next s) ∧
    (∀ w : Word, opcodeField w = 0x0#4 ∨ 7 ≤ (opcodeField w).toNat → exec (decode w) s = .next s)

/-- WRPIX writes the one cell it names and its written bit; every other cell and every other element is unchanged, fresh and
PPB among them. Its fields are those of format P (40_buffer_commands.md R71). -/
def Obligations.WrpixWritesOneCell : Prop :=
  (∀ w : Word, opcodeField w = 0x1#4 → decode w =
    .wrpix (w.extractLsb' 24 2) (w.extractLsb' 16 6) (w.extractLsb' 0 3) (w.extractLsb' 3 3) (w.extractLsb' 6 3)) ∧
  ∀ (slot : BitVec 2) (col : BitVec 6) (r g b : BitVec 3) (s : State), s.seq.phase = .idle →
    ∃ t, exec (.wrpix slot col r g b) s = .next t ∧
      t.rib[slot.toFin][col.toFin] = { r := r, g := g, b := b } ∧ t.ribWritten[slot.toFin][col.toFin] = true ∧
      (∀ (k : Fin 4) (x : Fin 64), ¬(k.val = slot.toNat ∧ x.val = col.toNat) →
        t.rib[k][x] = s.rib[k][x] ∧ t.ribWritten[k][x] = s.ribWritten[k][x]) ∧
      t = { s with rib := t.rib, ribWritten := t.ribWritten }

/-- CLRROWS, opcode 0x2, makes every RIB cell zero and written, and changes nothing else (40_buffer_commands.md R72). -/
def Obligations.ClrrowsClearsEveryCell : Prop :=
  (∀ w : Word, opcodeField w = 0x2#4 → decode w = .clrrows) ∧
  ∀ s : State, s.seq.phase = .idle →
    ∃ t, exec .clrrows s = .next t ∧
      (∀ (k : Fin 4) (x : Fin 64), t.rib[k][x] = { r := 0, g := 0, b := 0 } ∧ t.ribWritten[k][x] = true) ∧
      t = { s with rib := t.rib, ribWritten := t.ribWritten }

/-- WRDIRTY writes bits 16q+15:16q of DIRTY, leaves its other 48 bits, and changes nothing else. Its fields are those of
format Q (40_buffer_commands.md R73). -/
def Obligations.WrdirtyWritesOneQuarter : Prop :=
  (∀ w : Word, opcodeField w = 0x5#4 → decode w = .wrdirty (w.extractLsb' 16 2) (w.extractLsb' 0 16)) ∧
  ∀ (q : BitVec 2) (value : BitVec 16) (s : State), s.seq.phase = .idle →
    ∃ t, exec (.wrdirty q value) s = .next t ∧
      (∀ i : Nat, i < 64 →
        t.dirty.getLsbD i =
          if 16 * q.toNat ≤ i ∧ i ≤ 16 * q.toNat + 15 then value.getLsbD (i - 16 * q.toNat) else s.dirty.getLsbD i) ∧
      t = { s with dirty := t.dirty }

/-- PACK: bit 3s+c of the byte of plane p at chain column j is bit p of channel c of the pixel that half j div 64, sub-row s
shows there; bits 7:6 are 0; fresh becomes 1; undef is recorded exactly when some cell is unwritten; nothing else changes
(41_packer.md R79, R78; 10_state.md R25). Its opcode is 0x3. -/
def Obligations.PackFillsThePlanes : Prop :=
  (∀ w : Word, opcodeField w = 0x3#4 → decode w = .pack) ∧
  ∀ s : State, s.seq.phase = .idle →
    ∃ t, exec .pack s = .next t ∧
      (∀ (p : Fin 3) (j : Fin 128) (sub : Fin 2) (c : Fin 3),
        (t.ppb[p][j]).getLsbD (3 * sub.val + c.val) =
          (channel (s.rib[slotOf (halfOf j) sub][Config.pixelMap.colMap (halfOf j) (posOf j)]) c).getLsbD p.val) ∧
      (∀ (p : Fin 3) (j : Fin 128), (t.ppb[p][j]).getLsbD 6 = false ∧ (t.ppb[p][j]).getLsbD 7 = false) ∧
      t.fresh = true ∧
      (t.undef = true ↔ s.undef = true ∨ ∃ (k : Fin 4) (x : Fin 64), s.ribWritten[k][x] = false) ∧
      t = { s with ppb := t.ppb, fresh := t.fresh, undef := t.undef }

/-- Acceptance of RENDER: stale is recorded when fresh was 0, fresh becomes 0, the sequencer is loaded and leaves IDLE; no
action is emitted, and RIB, PPB, DIRTY and the pins are unchanged (42_matrix_driver.md R93, R96). Its fields are those of
format A, opcode 0x4. -/
def Obligations.RenderStartsItsSequence : Prop :=
  (∀ w : Word, opcodeField w = 0x4#4 → decode w = .render (w.extractLsb' 0 4)) ∧
  ∀ (a : BitVec 4) (s : State), s.seq.phase = .idle →
    exec (.render a) s = .next
      { s with
        stale := if s.fresh then s.stale else true
        fresh := false
        seq := { phase := .blankIn, addr := a, plane := 0, col := 0, timer := s.seq.timer } }

/-- RENDERD: when some logical row that its address serves is dirty, the next state is exactly RENDER's; else nothing changes,
fresh among it. Its fields are those of format A, opcode 0x6 (42_matrix_driver.md R95). -/
def Obligations.RenderdDrivesOnlyDirtyAddresses : Prop :=
  (∀ w : Word, opcodeField w = 0x6#4 → decode w = .renderd (w.extractLsb' 0 4)) ∧
  ∀ (a : BitVec 4) (s : State), s.seq.phase = .idle →
    ∃ t, exec (.renderd a) s = .next t ∧
      ((∃ h sub : Fin 2, s.dirty.getLsbD (Config.pixelMap.rowMap a.toFin h sub).val = true) →
        exec (.render a) s = .next t ∧ t.ready = false) ∧
      ((∀ h sub : Fin 2, s.dirty.getLsbD (Config.pixelMap.rowMap a.toFin h sub).val = false) → t = s)

/-- The address mask (42_matrix_driver.md R94), for every pixel map, and its form under the default map. -/
def Obligations.AddrMaskJoinsTheFourRows : Prop :=
  (∀ (m : PixelMap) (d : BitVec 64) (a : Fin 16),
    (addrMask m d).getLsbD a.val =
      (d.getLsbD (m.rowMap a 0 0).val || d.getLsbD (m.rowMap a 0 1).val ||
        d.getLsbD (m.rowMap a 1 0).val || d.getLsbD (m.rowMap a 1 1).val)) ∧
  (∀ (d : BitVec 64) (a : Fin 16),
    (addrMask PixelMap.default d).getLsbD a.val =
      (d.getLsbD a.val || d.getLsbD (a.val + 16) || d.getLsbD (a.val + 32) || d.getLsbD (a.val + 48)))

/-- Every store is written only by its own commands, and no command touches the pins or the trace at acceptance: RIB by WRPIX
and CLRROWS, PPB by PACK, DIRTY by WRDIRTY, fresh and the records by PACK, RENDER and RENDERD (10_state.md section 1). -/
def Obligations.EachStoreHasItsOwnWriters : Prop :=
  ∀ (i : Instr) (s t : State), exec i s = .next t →
    (t.rib ≠ s.rib → i = .clrrows ∨ ∃ slot col r g b, i = .wrpix slot col r g b) ∧
    (t.ribWritten ≠ s.ribWritten → i = .clrrows ∨ ∃ slot col r g b, i = .wrpix slot col r g b) ∧
    (t.ppb ≠ s.ppb → i = .pack) ∧
    (t.undef ≠ s.undef → i = .pack) ∧
    (t.dirty ≠ s.dirty → ∃ q value, i = .wrdirty q value) ∧
    (t.stale ≠ s.stale → ∃ a, i = .render a ∨ i = .renderd a) ∧
    (t.seq ≠ s.seq → ∃ a, i = .render a ∨ i = .renderd a) ∧
    (t.fresh ≠ s.fresh → i = .pack ∨ ∃ a, i = .render a ∨ i = .renderd a) ∧
    t.pins = s.pins ∧ t.trace = s.trace ∧ t.port = s.port ∧ t.resets = s.resets ∧ t.cutShort = s.cutShort

/-- Which commands complete at acceptance (30_encoding.md section 1): all but RENDER, and RENDERD on a dirty address. -/
def Obligations.OnlyRenderLeavesIdle : Prop :=
  ∀ (i : Instr) (s t : State), s.seq.phase = .idle → exec i s = .next t →
    (t.seq.phase ≠ .idle ↔
      ∃ a : BitVec 4, i = .render a ∨
        (i = .renderd a ∧ ∃ h sub : Fin 2, s.dirty.getLsbD (Config.pixelMap.rowMap a.toFin h sub).val = true))

/-- Writes are idempotent in state: a second identical WRPIX, CLRROWS, WRDIRTY, or PACK with RIB unchanged, changes nothing
more (20_memory.md section 3). -/
def Obligations.WritesAndPackAreIdempotent : Prop :=
  ∀ (s t : State),
    (∀ slot col r g b, exec (.wrpix slot col r g b) s = .next t → exec (.wrpix slot col r g b) t = .next t) ∧
    (exec .clrrows s = .next t → exec .clrrows t = .next t) ∧
    (∀ q value, exec (.wrdirty q value) s = .next t → exec (.wrdirty q value) t = .next t) ∧
    (exec .pack s = .next t → exec .pack t = .next t)

/-- RIB reaches the outputs only through PACK: with no PACK accepted on this step, two states that differ only in RIB and its
written bits step to states that differ only there (20_memory.md section 4, 70_reset_and_hazards.md section 4). -/
def Obligations.RibIsReadOnlyByPack : Prop :=
  ∀ (s : State) (R : Rib) (W : Grid Bool 4 64),
    (∀ w, acceptedWord s = some w → decode w ≠ .pack) →
    ∃ t t', step s = .next t ∧ step { s with rib := R, ribWritten := W } = .next t' ∧
      t' = { t with rib := t'.rib, ribWritten := t'.ribWritten }

/-- The hazard records are sticky: only reset clears stale, undef or a written bit (60_exceptions.md R109, 10_state.md R34). -/
def Obligations.RecordsAreSticky : Prop :=
  ∀ s t : State, resetAsserted s = false → step s = .next t →
    (s.stale = true → t.stale = true) ∧ (s.undef = true → t.undef = true) ∧
    (∀ (k : Fin 4) (x : Fin 64), s.ribWritten[k][x] = true → t.ribWritten[k][x] = true) ∧
    (∃ acts, t.trace = s.trace ++ acts)

/-- A PACK, a skipped RENDERD and then a RENDER of another address: fresh is still 1, so the RENDER records nothing, neither
stale nor undef, although PPB was packed for the skipped address (70_reset_and_hazards.md section 4). -/
def Obligations.SkippedRenderdKeepsFresh : Prop :=
  ∀ (a b : BitVec 4) (s : State), s.seq.phase = .idle →
    (∀ h sub : Fin 2, s.dirty.getLsbD (Config.pixelMap.rowMap a.toFin h sub).val = false) →
    ∃ t u, exec .pack s = .next t ∧ exec (.renderd a) t = .next t ∧ t.fresh = true ∧
      exec (.render b) t = .next u ∧ u.stale = s.stale ∧ u.stale = t.stale ∧ u.undef = t.undef ∧ u.ppb = t.ppb

/-! ## Packing -/

/-- Column independence: a byte of plane p depends only on the channel bits p of the two pixels its column shows, and changing
one RIB cell changes no byte but those of the one chain column that reads it (41_packer.md R81). -/
def Obligations.PackColumnsAreIndependent : Prop :=
  (∀ (m : PixelMap) (R R' : Rib) (p : Fin 3) (j : Fin 128),
    (∀ (sub : Fin 2) (c : Fin 3),
      (channel (R[slotOf (halfOf j) sub][m.colMap (halfOf j) (posOf j)]) c).getLsbD p.val =
        (channel (R'[slotOf (halfOf j) sub][m.colMap (halfOf j) (posOf j)]) c).getLsbD p.val) →
    (packRows m R)[p][j] = (packRows m R')[p][j]) ∧
  ∀ (m : PixelMap) (R : Rib) (k : Fin 4) (y : Fin 64) (v : Pixel),
    (∀ (p : Fin 3) (j : Fin 128),
      ¬((halfOf j).val = k.val / 2 ∧ m.colMap (halfOf j) (posOf j) = y) →
      (packRows m (setCell R k y v))[p][j] = (packRows m R)[p][j]) ∧
    (m.Legal →
      ∀ j j' : Fin 128,
        (halfOf j).val = k.val / 2 ∧ m.colMap (halfOf j) (posOf j) = y →
        (halfOf j').val = k.val / 2 ∧ m.colMap (halfOf j') (posOf j') = y → j = j')

/-- pack is a bijection between RIB contents and the low six bits of PPB, with inverse unpack, for every legal pixel map
(41_packer.md R82). -/
def Obligations.UnpackInvertsPack : Prop :=
  ∀ m : PixelMap, m.Legal →
    (∀ R : Rib, unpackRows m (packRows m R) = R) ∧
    (∀ (P : Ppb) (p : Fin 3) (j : Fin 128),
      ((packRows m (unpackRows m P))[p][j]).extractLsb' 0 6 = (P[p][j]).extractLsb' 0 6) ∧
    (∀ (P : Ppb) (h sub : Fin 2) (x : Fin 64) (c : Fin 3),
      (channel ((unpackRows m P)[slotOf h sub][m.colMap h x]) c).toNat =
        ((P[(0 : Fin 3)][chainCol h x]).getLsbD (3 * sub.val + c.val)).toNat +
          ((P[(1 : Fin 3)][chainCol h x]).getLsbD (3 * sub.val + c.val)).toNat * 2 +
          ((P[(2 : Fin 3)][chainCol h x]).getLsbD (3 * sub.val + c.val)).toNat * 4)

/-- Packing all-zero intensities gives all-zero bytes, and intensity 7 everywhere gives 0x3F everywhere
(41_packer.md R83). -/
def Obligations.PackOfUniformRows : Prop :=
  ∀ (m : PixelMap) (R : Rib) (p : Fin 3) (j : Fin 128),
    ((∀ (k : Fin 4) (x : Fin 64), R[k][x] = { r := 0, g := 0, b := 0 }) → (packRows m R)[p][j] = 0x00#8) ∧
    ((∀ (k : Fin 4) (x : Fin 64), R[k][x] = { r := 7, g := 7, b := 7 }) → (packRows m R)[p][j] = 0x3F#8)

/-! ## The sequencer and its traces -/

/-- The sequencer's table, row by row (42_matrix_driver.md R96): the action emitted, with its pin effect, the register updates
and the next phase; nothing else changes. -/
def Obligations.SequencerFollowsItsTable : Prop :=
  ∀ (B : Nat) (s : State),
    (s.seq.phase = .idle → sequencerStep B s = s) ∧
    (s.seq.phase = .blankIn → sequencerStep B s =
      { s with trace := s.trace ++ [.setOE false], pins := { s.pins with oe := false },
               seq := { s.seq with phase := .setRow } }) ∧
    (s.seq.phase = .setRow → sequencerStep B s =
      { s with trace := s.trace ++ [.setRow s.seq.addr], pins := { s.pins with row := s.seq.addr },
               seq := { s.seq with phase := .shift } }) ∧
    (s.seq.phase = .shift → s.seq.col.toNat < 127 → sequencerStep B s =
      { s with trace := s.trace ++ [.shift (ppbData s.ppb s.seq.plane s.seq.col.toFin)],
               pins := { s.pins with data := ppbData s.ppb s.seq.plane s.seq.col.toFin, clk := false },
               seq := { s.seq with col := s.seq.col + 1 } }) ∧
    (s.seq.phase = .shift → s.seq.col.toNat = 127 → sequencerStep B s =
      { s with trace := s.trace ++ [.shift (ppbData s.ppb s.seq.plane 127)],
               pins := { s.pins with data := ppbData s.ppb s.seq.plane 127, clk := false },
               seq := { s.seq with col := 0, phase := .latch } }) ∧
    (s.seq.phase = .latch → sequencerStep B s =
      { s with trace := s.trace ++ [.pulseLatch], pins := { s.pins with lat := false },
               seq := { s.seq with phase := .on } }) ∧
    (s.seq.phase = .on → sequencerStep B s =
      { s with trace := s.trace ++ [.setOE true], pins := { s.pins with oe := true },
               seq := { s.seq with timer := B * 2 ^ s.seq.plane.val, phase := .expose } }) ∧
    (s.seq.phase = .expose → 1 < s.seq.timer → sequencerStep B s =
      { s with trace := s.trace ++ [.wait 1], seq := { s.seq with timer := s.seq.timer - 1 } }) ∧
    (s.seq.phase = .expose → s.seq.timer = 1 → sequencerStep B s =
      { s with trace := s.trace ++ [.wait 1], seq := { s.seq with timer := 0, phase := .off } }) ∧
    (s.seq.phase = .off → s.seq.plane.val < 2 → sequencerStep B s =
      { s with trace := s.trace ++ [.setOE false], pins := { s.pins with oe := false },
               seq := { s.seq with plane := s.seq.plane + 1, phase := .shift } }) ∧
    (s.seq.phase = .off → s.seq.plane.val = 2 → sequencerStep B s =
      { s with trace := s.trace ++ [.setOE false], pins := { s.pins with oe := false },
               seq := { s.seq with plane := 0, phase := .idle } })

/-- The level of the electrical output-enable pin: oe when it is active-high, not oe when it is active-low, and the modelled
block's default is active-low, so after reset the pin is high (00_scope.md R16; log 4). -/
def Obligations.OePinFollowsItsPolarity : Prop :=
  (∀ p : Pins, oeLevel false p = p.oe ∧ oeLevel true p = !p.oe) ∧
  (∀ s : State, s.oePin = !s.pins.oe) ∧ State.reset.oePin = true

/-- Within an action the pins change only as the action names, a Shift puts its data on the lines before the one rising clock
edge and keeps it, a PulseLatch raises and lowers lat, and the pins held afterwards are the last of these levels
(42_matrix_driver.md R87). -/
def Obligations.ActionsDriveThePins : Prop :=
  ∀ p : Pins, p.clk = false → p.lat = false →
    (∀ v, pinsDuring p (.setOE v) = [{ p with oe := v }] ∧ pinsAfter p (.setOE v) = { p with oe := v }) ∧
    (∀ a, pinsDuring p (.setRow a) = [{ p with row := a }] ∧ pinsAfter p (.setRow a) = { p with row := a }) ∧
    (∀ d, pinsDuring p (.shift d) = [{ p with data := d }, { p with data := d, clk := true }, { p with data := d }] ∧
      pinsAfter p (.shift d) = { p with data := d }) ∧
    (pinsDuring p .pulseLatch = [{ p with lat := true }, p] ∧ pinsAfter p .pulseLatch = p) ∧
    (∀ n, pinsDuring p (.wait n) = [] ∧ pinsAfter p (.wait n) = p)

/-- A sequence, once started, runs to its end: from BLANK_IN, with no reset, after exactly 395 + 7·BASE_DELAY steps the block
is IDLE, has emitted exactly the sequence of its address from the planes as they stood, holds the end pins, and has changed
nothing else; at no earlier step is it ready (42_matrix_driver.md R96, R97, R98; 20_memory.md R53). -/
def Obligations.SequenceRunsToItsEnd : Prop :=
  ∀ s : State, s.seq.phase = .blankIn → s.seq.plane = 0 → s.seq.col = 0 →
    noResetFor (sequenceSteps Config.baseDelay) s →
    (∃ t : State, runSteps (395 + 7 * Config.baseDelay) s = .next t ∧
      t = { s with
        seq := { phase := .idle, addr := s.seq.addr, plane := 0, col := 0, timer := 0 }
        trace := s.trace ++ sequencerTrace Config.baseDelay s.seq.addr s.ppb
        pins := { row := s.seq.addr, data := ppbData s.ppb 2 127, clk := false, lat := false, oe := false }
        port := t.port }) ∧
    (∀ k < 395 + 7 * Config.baseDelay, ∀ u : State,
      runSteps k s = .next u → u.ready = false)

/-- A word presented while the block is busy is accepted when ready returns to 1: within 395 + 7·BASE_DELAY steps, with no
reset then or on the step after, the block is ready with that word still the first on the port, and the next step runs its
command (30_encoding.md R59). -/
def Obligations.HeldWordIsAcceptedInTime : Prop :=
  ∀ (s : State) (w : Word) (ws : List (Option Word)),
    seqInv Config.baseDelay s → s.port.words = some w :: ws →
    noResetFor (sequenceSteps Config.baseDelay + 1) s →
    ∃ n ≤ sequenceSteps Config.baseDelay, ∃ t : State,
      runSteps n s = .next t ∧ t.ready = true ∧ t.port.words = some w :: ws ∧
      step t = exec (decode w) { t with port := { words := ws, resets := t.port.resets.tail } }

/-- The two levels agree: from a ready state, any command takes the action level, with no reset, to the state that its one
transition at the command level gives, once adjacent Waits of what it emitted are merged (00_scope.md R7). -/
def Obligations.ActionLevelMeetsCommandLevel : Prop :=
  ∀ (i : Instr) (s : State) (ws : List (Option Word)),
    i.wf = true → s.seq.phase = .idle → seqInv Config.baseDelay s → s.port.words = some (encode i) :: ws →
    noResetFor (sequenceSteps Config.baseDelay + 1) s →
    ∃ n t acts, 1 ≤ n ∧ n ≤ sequenceSteps Config.baseDelay + 1 ∧
      runSteps n s = .next t ∧ t.ready = true ∧ t.trace = s.trace ++ acts ∧
      ({ t with trace := s.trace ++ mergeWaits acts, port := s.port } : State) =
        commandTransition Config.baseDelay Config.pixelMap i s

/-- Two adjacent Waits are the same observation as one, merging all of a trace leaves the observation as it is, and takes the sequencer's actions to the command-level trace
(42_matrix_driver.md R88). -/
def Obligations.MergedWaitsAreTheSameObservation : Prop :=
  (∀ (o : Pins × Panel) (m n : Nat) (rest : List PinAction),
    observe o (.wait m :: .wait n :: rest) = observe o (.wait (m + n) :: rest)) ∧
  (∀ (o : Pins × Panel) (trace : List PinAction), observe o (mergeWaits trace) = observe o trace) ∧
  (∀ (B : Nat) (a : ScanAddr) (P : Ppb), 1 ≤ B → mergeWaits (sequencerTrace B a P) = renderTrace B a P)

/-- Every step keeps the invariant: the pins, the sequencer and the safety of the whole trace (42_matrix_driver.md R99 to
R101). -/
def Obligations.EveryStepKeepsTheRunInvariant : Prop :=
  ∀ s t : State, runInv s → step s = .next t → runInv t

/-- The invariant holds after reset. -/
def Obligations.RunInvariantHoldsAtReset : Prop := runInv State.reset

/-- In every trace the block emits, every SetRow, Shift and PulseLatch occurs while oe = 0 (42_matrix_driver.md R99). -/
def Obligations.RowShiftAndLatchAreBlanked : Prop :=
  ∀ (s : State) (before after : List PinAction) (act : PinAction),
    runInv s → s.trace = before ++ act :: after → needsBlank act = true →
    (before.foldl pinsAfter Pins.reset).oe = false

/-- In every trace the block emits, each PulseLatch is preceded, since the previous PulseLatch or SetRow, by exactly 128
Shifts, and each RENDER sequence has exactly 3 PulseLatch (42_matrix_driver.md R100). -/
def Obligations.LatchFollowsExactly128Shifts : Prop :=
  (∀ (s : State) (before after : List PinAction),
    runInv s → s.trace = before ++ .pulseLatch :: after → shiftsSince before = 128) ∧
  (∀ (B : Nat) (a : ScanAddr) (P : Ppb), (renderTrace B a P).count .pulseLatch = 3)

/-- In every trace the block emits, only Waits and the ending SetOE(0) occur while oe = 1, and a Wait occurs at no other time;
the panel is lit for exactly 7·BASE_DELAY delay units per sequence, at both levels (42_matrix_driver.md section 5). -/
def Obligations.LitOnlyDuringExposures : Prop :=
  (∀ (s : State) (before after : List PinAction) (act : PinAction),
    runInv s → s.trace = before ++ act :: after →
    ((before.foldl pinsAfter Pins.reset).oe = true → act = .setOE false ∨ ∃ n, act = .wait n) ∧
    ((before.foldl pinsAfter Pins.reset).oe = false → ∀ n, act ≠ .wait n)) ∧
  (∀ (B : Nat) (a : ScanAddr) (P : Ppb) (oe : Bool),
    litUnits oe (renderTrace B a P) = 7 * B ∧ litUnits oe (sequencerTrace B a P) = 7 * B)

/-- The counts of one RENDER sequence (42_matrix_driver.md R102). -/
def Obligations.RenderTraceCounts : Prop :=
  ∀ (B : Nat) (a : ScanAddr) (P : Ppb),
    (renderTrace B a P).length = 398 ∧
    (renderTrace B a P).countP (fun x => match x with | .setRow _ => true | _ => false) = 1 ∧
    (renderTrace B a P).countP (fun x => match x with | .shift _ => true | _ => false) = 384 ∧
    (renderTrace B a P).count .pulseLatch = 3 ∧
    (renderTrace B a P).count (.setOE false) = 4 ∧ (renderTrace B a P).count (.setOE true) = 3 ∧
    (renderTrace B a P).countP (fun x => match x with | .wait _ => true | _ => false) = 3 ∧
    waitUnits (renderTrace B a P) = 7 * B

/-- When a RENDER sequence ends: oe = 0, row = its address, data = PPB[2][127][5:0], clk = 0, lat = 0; and a step from IDLE,
which emits no action, leaves the pins as they are (42_matrix_driver.md R98). -/
def Obligations.RenderTraceEndPins : Prop :=
  (∀ s t : State, resetAsserted s = false → s.seq.phase = .idle → step s = .next t →
    t.trace = s.trace ∧ t.pins = s.pins) ∧
  ∀ (B : Nat) (a : ScanAddr) (P : Ppb) (p : Pins),
    (renderTrace B a P).foldl pinsAfter p =
      { row := a, data := (P[(2 : Fin 3)][(127 : Fin 128)]).extractLsb' 0 6, clk := false, lat := false, oe := false }

/-- The exposure of plane p lasts BASE_DELAY·2^p, within seq.timer's range, and that is what the sequencer loads on entering
EXPOSE, whatever the data, the address and the history (42_matrix_driver.md R89, 70_reset_and_hazards.md R135). -/
def Obligations.ExposureIsExact : Prop :=
  (∀ B : Nat, exposureDuration B 0 = B ∧ exposureDuration B 1 = 2 * B ∧ exposureDuration B 2 = 4 * B) ∧
  (∀ (B : Nat) (s : State), s.seq.phase = .on →
    (sequencerStep B s).seq.timer = exposureDuration B s.seq.plane ∧
    (sequencerStep B s).seq.timer < 4 * B + 1 ∧ (sequencerStep B s).seq.phase = .expose)

/-! ## What the panel shows, and the time it takes -/

/-- If the planes are packed from the rows, a RENDER of address a adds exactly BASE_DELAY times the intensity to each channel
of address a, and nothing to any other address, whatever the pins and the panel held before, so also after a reset that cut a
sequence short (42_matrix_driver.md R104; 93_implementation_defined.md U6). -/
def Obligations.RenderLightsInProportion : Prop :=
  ∀ (B : Nat) (m : PixelMap) (R : Rib) (a : ScanAddr) (o : Pins × Panel),
    (∀ (j : Fin 128) (sub : Fin 2) (c : Fin 3),
      (observe o (renderTrace B a (packRows m R))).2.exposure a j sub c =
        o.2.exposure a j sub c +
          B * (channel (R[slotOf (halfOf j) sub][m.colMap (halfOf j) (posOf j)]) c).toNat) ∧
    (∀ b : ScanAddr, b ≠ a → ∀ (j : Fin 128) (sub : Fin 2) (c : Fin 3),
      (observe o (renderTrace B a (packRows m R))).2.exposure b j sub c = o.2.exposure b j sub c)

/-- SCAN a at the action level, from a ready block with no reset in between: after its two acceptances and its sequence the
observation has gained exactly BASE_DELAY times the intensity that RIB held, at address a only; stale is not recorded (30_encoding.md R69, 41_packer.md R79, 42_matrix_driver.md R93, R104). -/
def Obligations.ScanShowsTheRows : Prop :=
  ∀ (a : BitVec 4) (w w' : Word) (s : State) (ws : List (Option Word)),
    assemble (.scan a.toNat) = some [w, w'] → s.port.words = some w :: some w' :: ws →
    s.seq.phase = .idle → seqInv Config.baseDelay s → noResetFor (sequenceSteps Config.baseDelay + 2) s →
    ∃ t : State, runSteps (397 + 7 * Config.baseDelay) s = .next t ∧ t.ready = true ∧ t.stale = s.stale ∧ t.fresh = false ∧
      (∀ (j : Fin 128) (sub : Fin 2) (c : Fin 3),
        (observation t).2.exposure a j sub c =
          (observation s).2.exposure a j sub c +
            Config.baseDelay *
              (channel (s.rib[slotOf (halfOf j) sub][Config.pixelMap.colMap (halfOf j) (posOf j)]) c).toNat) ∧
      (∀ b : ScanAddr, b ≠ a → ∀ (j : Fin 128) (sub : Fin 2) (c : Fin 3),
        (observation t).2.exposure b j sub c = (observation s).2.exposure b j sub c)

/-- A full frame of 16 RENDERs with freshly packed planes: every logical pixel's channel receives BASE_DELAY times its
intensity, and the frame is lit for 112·BASE_DELAY delay units, 7·BASE_DELAY of them at each address
(42_matrix_driver.md R105). -/
def Obligations.FullFrameShowsTheImage : Prop :=
  ∀ (B : Nat) (m : PixelMap) (img : Image) (o : Pins × Panel), m.Legal →
    (∀ (a : Fin 16) (h sub : Fin 2) (x : Fin 64) (c : Fin 3),
      (observe o (frameTrace B m img)).2.exposure (BitVec.ofFin a) (chainCol h x) sub c =
        o.2.exposure (BitVec.ofFin a) (chainCol h x) sub c +
          B * (channel (img[m.rowMap a h sub][m.colMap h x]) c).toNat) ∧
    (∀ row col : Fin 64, ∃ (a : Fin 16) (h sub : Fin 2) (x : Fin 64), m.rowMap a h sub = row ∧ m.colMap h x = col) ∧
    litUnits false (frameTrace B m img) = 112 * B ∧
    (∀ a : Fin 16,
      litUnits false (renderTrace B (BitVec.ofFin a) (packRows m (rowsForAddr m img (BitVec.ofFin a)))) = 7 * B)

/-- A scan address that is not driven receives no light: driving any list of other addresses, from any planes, leaves its
exposure account as it was, and a RENDERD on a clean address emits nothing (42_matrix_driver.md R106). -/
def Obligations.UndrivenAddressGetsNoLight : Prop :=
  (∀ (B : Nat) (a : ScanAddr) (drives : List (ScanAddr × Ppb)) (o : Pins × Panel) (j : Fin 128) (sub : Fin 2) (c : Fin 3),
    (∀ d ∈ drives, d.1 ≠ a) →
    (observe o (drives.flatMap fun d => renderTrace B d.1 d.2)).2.exposure a j sub c = o.2.exposure a j sub c) ∧
  (∀ (a : BitVec 4) (s : State),
    (∀ h sub : Fin 2, s.dirty.getLsbD (Config.pixelMap.rowMap a.toFin h sub).val = false) →
    exec (.renderd a) s = .next s)

/-- The duration of a RENDER sequence: 7·BASE_DELAY of exposure plus T_ACTION of its 395 other actions
(70_reset_and_hazards.md section 5). -/
def Obligations.RenderSequenceDuration : Prop :=
  ∀ (tAction : ActionKind → ℚ≥0) (B : Nat) (a : ScanAddr) (P : Ppb),
    traceDuration tAction (renderTrace B a P) =
      (7 * B : ℚ≥0) + tAction .setRow + 384 * tAction .shift + 3 * tAction .pulseLatch + 7 * tAction .setOE

/-! ## Encoding and the assembler -/

/-- Decode and encode agree on every well-formed command, at every operand value. -/
def Obligations.DecodeEncodeRoundTrip : Prop := ∀ i : Instr, i.wf = true → decode (encode i) = i

/-- Every word decodes to a well-formed command, and the reserved bits of its format are ignored (30_encoding.md R66, R67):
the masks are the fields marked `-` of R61. -/
def Obligations.ReservedBitsAreIgnored : Prop :=
  (∀ w : Word, (decode w).wf = true) ∧
  ∀ w v : Word,
    ((opcodeField w = 0x0#4 ∨ opcodeField w = 0x2#4 ∨ opcodeField w = 0x3#4) →
      decode (w ^^^ (v &&& 0x0FFFFFFF#32)) = decode w) ∧
    (opcodeField w = 0x1#4 → decode (w ^^^ (v &&& 0x0CC0FE00#32)) = decode w) ∧
    ((opcodeField w = 0x4#4 ∨ opcodeField w = 0x6#4) → decode (w ^^^ (v &&& 0x0FFFFFF0#32)) = decode w) ∧
    (opcodeField w = 0x5#4 → decode (w ^^^ (v &&& 0x0FFC0000#32)) = decode w)

/-- Words written out from the format tables decode to the commands they stand for (95_test_vectors.md section 2.1). -/
def Obligations.SpecWordsDecode : Prop :=
  decode 0x00000000#32 = .nop ∧ decode 0x120500C7#32 = .wrpix 2 5 7 0 3 ∧ decode 0x20000000#32 = .clrrows ∧
  decode 0x30000000#32 = .pack ∧ decode 0x4000000F#32 = .render 15 ∧ decode 0x5001FE00#32 = .wrdirty 1 0xFE00 ∧
  decode 0x60000009#32 = .renderd 9 ∧ decode 0x70000000#32 = .reserved7 ∧ decode 0xFFFFFFFF#32 = .reserved8f 15

/-- The assembler gives the words of R68's table, and never truncates: an operand outside its range is an error
(30_encoding.md section 5). -/
def Obligations.AssemblerFollowsItsTable : Prop :=
  (∀ slot col r g b : Nat,
    assemble (.wrpix slot col r g b) =
      if slot ≤ 3 ∧ col ≤ 63 ∧ r ≤ 7 ∧ g ≤ 7 ∧ b ≤ 7 then
        some [BitVec.ofNat 32 (0x10000000 + slot * 2 ^ 24 + col * 2 ^ 16 + b * 2 ^ 6 + g * 2 ^ 3 + r)]
      else none) ∧
  (∀ a : Nat, assemble (.render a) = if a ≤ 15 then some [BitVec.ofNat 32 (0x40000000 + a)] else none) ∧
  (∀ a : Nat, assemble (.renderd a) = if a ≤ 15 then some [BitVec.ofNat 32 (0x60000000 + a)] else none) ∧
  (∀ q value : Nat,
    assemble (.wrdirty q value) =
      if q ≤ 3 ∧ value ≤ 0xFFFF then some [BitVec.ofNat 32 (0x50000000 + q * 2 ^ 16 + value)] else none) ∧
  assemble .nop = some [0x00000000#32] ∧ assemble .clrrows = some [0x20000000#32] ∧ assemble .pack = some [0x30000000#32]

/-- The pseudo-instructions (30_encoding.md R69). SETDIRTY expands to WRDIRTY of the quarters 0 to 3 in that order, which leave
DIRTY equal to its operand, whatever it was, and nothing else changed. LOADROW expands to WRPIX of the columns 0 to 63 in
increasing order, which leave the slot equal to its pixels and written, and nothing else changed. SCAN and SCAND are PACK
followed by RENDER and RENDERD. -/
def Obligations.PseudoInstructionsDoTheirWork : Prop :=
  (∀ (B : Nat) (pm : PixelMap) (m : BitVec 64) (s : State),
    ∃ is, expand (.setdirty m.toNat) = some is ∧
      is = [.wrdirty 0 (m.extractLsb' 0 16), .wrdirty 1 (m.extractLsb' 16 16), .wrdirty 2 (m.extractLsb' 32 16),
        .wrdirty 3 (m.extractLsb' 48 16)] ∧
      is.foldl (fun t i => commandTransition B pm i t) s = { s with dirty := m }) ∧
  (∀ (B : Nat) (pm : PixelMap) (k : Fin 4) (ps : List PixelOperand) (s : State), ps.length = 64 →
    (∀ p ∈ ps, p.r ≤ 7 ∧ p.g ≤ 7 ∧ p.b ≤ 7) →
    ∃ is t, expand (.loadrow k.val ps) = some is ∧ is.length = 64 ∧
      t = is.foldl (fun t i => commandTransition B pm i t) s ∧
      (∀ (x : Fin 64) (p : PixelOperand), ps[x.val]? = some p →
        is[x.val]? = some (.wrpix (BitVec.ofFin k) (BitVec.ofFin x) (BitVec.ofNat 3 p.r) (BitVec.ofNat 3 p.g)
          (BitVec.ofNat 3 p.b)) ∧
        t.rib[k][x] = { r := BitVec.ofNat 3 p.r, g := BitVec.ofNat 3 p.g, b := BitVec.ofNat 3 p.b } ∧
        t.ribWritten[k][x] = true) ∧
      (∀ (k' : Fin 4) (x : Fin 64), k' ≠ k → t.rib[k'][x] = s.rib[k'][x] ∧ t.ribWritten[k'][x] = s.ribWritten[k'][x]) ∧
      t = { s with rib := t.rib, ribWritten := t.ribWritten }) ∧
  (∀ a : BitVec 4,
    expand (.scan a.toNat) = some [.pack, .render a] ∧ expand (.scand a.toNat) = some [.pack, .renderd a])

/-- What the panel holds when reset has been taken (42_matrix_driver.md R103; 93_implementation_defined.md U3, U6): every E entry
0, SR empty where the reset cut no sequence short (taken in IDLE, with nothing left from an earlier cut), and in any case at
most 128 words in SR; at the first reset SR is empty. The latched words are free (log 8), SR after a cut is free (log 18). -/
def Obligations.ObservationStartsAtReset : Prop :=
  (observation State.reset).2.sr = [] ∧
  (∀ (a : ScanAddr) (j : Fin 128) (sub : Fin 2) (c : Fin 3), (observation State.reset).2.exposure a j sub c = 0) ∧
  ∀ s t : State, resetAsserted s = true → step s = .next t →
    (observation t).1 = { row := 0, data := 0, clk := false, lat := false, oe := false } ∧
    (∀ (a : ScanAddr) (j : Fin 128) (sub : Fin 2) (c : Fin 3), (observation t).2.exposure a j sub c = 0) ∧
    (s.seq.phase = .idle → (s.cutShort = false ∨ s.trace ≠ []) → (observation t).2.sr = [] ∧ t.cutShort = false) ∧
    (s.seq.phase ≠ .idle ∨ (s.cutShort = true ∧ s.trace = []) → t.cutShort = true) ∧
    (observation t).2.sr.length ≤ 128

/-- No step but a reset changes what the panel started from: a step with reset not asserted only extends the observation by the
actions it emits, in order (42_matrix_driver.md R103, 20_memory.md R54). -/
def Obligations.StepExtendsTheObservation : Prop :=
  ∀ s t : State, resetAsserted s = false → step s = .next t →
    ∃ acts : List PinAction, acts.length ≤ 1 ∧ t.trace = s.trace ++ acts ∧ observation t = observe (observation s) acts ∧
      t.resets = s.resets ∧ t.cutShort = s.cutShort
end

