-- ==== Sys2Proof/Laws/Decode.lean ====
section
/-! SUPPORT. Extracting a field from a word built of placed fields. -/

namespace Sys2Proof

/-- Extraction distributes over the fields of a word. -/
theorem extract_or (x y : Word) (lo len : Nat) :
    (x ||| y).extractLsb' lo len = x.extractLsb' lo len ||| y.extractLsb' lo len := by
  apply BitVec.eq_of_getLsbD_eq
  intro i hi
  simp [hi]

/-- A field read back from its own place. -/
theorem extract_field_self {n : Nat} (v : BitVec n) (lo : Nat) (h : lo + n ≤ 32) :
    (field v lo).extractLsb' lo n = v := by
  apply BitVec.eq_of_getLsbD_eq
  intro i hi
  have h1 : lo + i < 32 := by omega
  simp [field, hi, h1]

/-- A field has no bit above its place. -/
theorem extract_field_above {n : Nat} (v : BitVec n) (lo at' len : Nat) (h : lo + n ≤ at') :
    (field v lo).extractLsb' at' len = 0 := by
  apply BitVec.eq_of_getLsbD_eq
  intro i hi
  have h1 : v.getLsbD (at' + i - lo) = false := BitVec.getLsbD_of_ge _ _ (by omega)
  simp [field, h1]

/-- A field has no bit below its place. -/
theorem extract_field_below {n : Nat} (v : BitVec n) (lo at' len : Nat) (h : at' + len ≤ lo) :
    (field v lo).extractLsb' at' len = 0 := by
  apply BitVec.eq_of_getLsbD_eq
  intro i hi
  have h1 : at' + i < lo := by omega
  simp [field, h1]

end Sys2Proof
end

