-- ==== Sys2Proof/Laws/Grid.lean ====
section
/-! SUPPORT. What the reads of the stores give after the named writes: cells, quarters of DIRTY, packed bytes. -/

namespace Sys2Proof.Machine

/-- The read of the cell just written. -/
theorem setCell_same {α : Type} (g : Grid α 4 64) (k : Fin 4) (x : Fin 64) (v : α) : (setCell g k x v)[k][x] = v := by
  simp [setCell]

/-- The read of every other cell. -/
theorem setCell_other {α : Type} (g : Grid α 4 64) (k k' : Fin 4) (x x' : Fin 64) (v : α)
    (h : ¬(k' = k ∧ x' = x)) : (setCell g k x v)[k'][x'] = g[k'][x'] := by
  by_cases hk : k' = k
  · subst hk
    have hx : x.val ≠ x'.val := fun e => h ⟨rfl, Fin.ext e.symm⟩
    simp [setCell, Vector.getElem_set_ne, hx]
  · have hk' : k.val ≠ k'.val := fun e => hk (Fin.ext e.symm)
    simp [setCell, Vector.getElem_set_ne, hk']

/-- Writing a cell twice with one value is writing it once. -/
theorem setCell_twice {α : Type} (g : Grid α 4 64) (k : Fin 4) (x : Fin 64) (v : α) :
    setCell (setCell g k x v) k x v = setCell g k x v := by
  simp [setCell]

/-- A written bit that is set stays set under a further set. -/
theorem setCell_true_mono (g : Grid Bool 4 64) (k k' : Fin 4) (x x' : Fin 64) (h : g[k'][x'] = true) :
    (setCell g k x true)[k'][x'] = true := by
  by_cases e : k' = k ∧ x' = x
  · obtain ⟨rfl, rfl⟩ := e
    exact setCell_same g k' x' true
  · rw [setCell_other g k k' x x' true e, h]

/-- Every bit of a quarter write: the quarter's own bits come from the value, the others stay. -/
theorem setQuarter_bit (d : BitVec 64) (q : BitVec 2) (value : BitVec 16) (i : Nat) (hi : i < 64) :
    (setQuarter d q value).getLsbD i =
      if i / 16 = q.toNat then value.getLsbD (i % 16) else d.getLsbD i := by
  have hm : ∀ n : Nat, (0xFFFF#64).getLsbD n = decide (n < 16) := by
    intro n
    by_cases hn : n < 64
    · have := (by decide : ∀ n : Fin 64, (0xFFFF#64).getLsbD n.val = decide (n.val < 16)) ⟨n, hn⟩
      simpa using this
    · rw [BitVec.getLsbD_of_ge _ _ (by omega)]
      simp
      omega
  have hq := q.isLt
  simp only [setQuarter, BitVec.getLsbD_or, BitVec.getLsbD_and, BitVec.getLsbD_not, BitVec.getLsbD_shiftLeft, hm,
    BitVec.getLsbD_setWidth, hi, decide_true, Bool.true_and]
  by_cases hlow : i < 16 * q.toNat
  · have : ¬i / 16 = q.toNat := by omega
    simp [hlow, this]
  · by_cases hhigh : i < 16 * q.toNat + 16
    · have h1 : i / 16 = q.toNat := by omega
      have h2 : i % 16 = i - 16 * q.toNat := by omega
      have h3 : i - 16 * q.toNat < 16 := by omega
      have h4 : i - 16 * q.toNat < 64 := by omega
      simp [hlow, h1, h2, h3, h4]
    · have h1 : ¬i / 16 = q.toNat := by omega
      have h3 : ¬i - 16 * q.toNat < 16 := by omega
      simp [hlow, h1, h3, BitVec.getLsbD_of_ge value _ (by omega : 16 ≤ i - 16 * q.toNat)]

/-- The byte that packing puts at plane `p`, chain column `j`. -/
theorem packRows_byte (m : PixelMap) (R : Rib) (p : Fin 3) (j : Fin 128) :
    (packRows m R)[p][j] = packByte (ribPixel m R j 0) (ribPixel m R j 1) p := by
  simp [packRows]

/-- Bit `3*s + c` of a packed byte is bit `p` of channel `c` of sub-row `s`. -/
theorem packByte_bit (pix : Fin 2 → Pixel) (p : Fin 3) (s : Fin 2) (c : Fin 3) :
    (packByte (pix 0) (pix 1) p).getLsbD (3 * s.val + c.val) = (channel (pix s) c).getLsbD p.val := by
  fin_cases s <;> fin_cases c <;> simp [packByte, byteBit, channel]

/-- Bits 7:6 of a packed byte are 0. -/
theorem packByte_top (top bottom : Pixel) (p : Fin 3) :
    (packByte top bottom p).getLsbD 6 = false ∧ (packByte top bottom p).getLsbD 7 = false := by
  constructor <;> simp [packByte, byteBit]

end Sys2Proof.Machine
end

