-- ==== Sys2Proof/Laws/Observe.lean ====
section
/-! SUPPORT. The small laws of traces, of merging Waits, and of the panel model. -/

namespace Sys2Proof.Machine

/-- What `shiftIn` is. -/
theorem shiftIn_eq (sr : List DataWord) (d : DataWord) :
    shiftIn sr d = (sr ++ [d]).drop ((sr ++ [d]).length - 128) := by
  unfold shiftIn
  rfl

/-- SR never holds more than 128 words. -/
theorem shiftIn_length_le (sr : List DataWord) (d : DataWord) : (shiftIn sr d).length ≤ 128 := by
  rw [shiftIn_eq, List.length_drop]
  omega

/-- While fewer than 128 words were shifted, the newest words stay at the end of SR in order. -/
theorem shiftIn_suffix (before l : List DataWord) (d : DataWord) (h : l.length < 128) :
    ∃ before', shiftIn (before ++ l) d = before' ++ (l ++ [d]) := by
  refine ⟨before.drop (before.length + l.length + 1 - 128), ?_⟩
  have e : (before ++ l ++ [d]).length - 128 = before.length + l.length + 1 - 128 := by
    rw [List.length_append, List.length_append, List.length_singleton]
  have z : before.length + l.length + 1 - 128 - before.length = 0 := by omega
  rw [shiftIn_eq, e, List.append_assoc, List.drop_append, z, List.drop_zero]

/-- SR is empty after a reset that cut no sequence short. -/
theorem panelReset_sr_empty (n : Nat) : (panelReset false n).sr = [] := rfl

/-- SR holds at most 128 words after any reset. -/
theorem panelReset_sr_length_le (cut : Bool) (n : Nat) : (panelReset cut n).sr.length ≤ 128 := by
  cases cut
  · exact Nat.zero_le _
  · exact List.length_take_le _ _

/-- Observing nothing. -/
theorem observe_nil (o : Pins × Panel) : observe o [] = o := rfl

/-- Observing one more action. -/
theorem observe_cons (o : Pins × Panel) (a : PinAction) (t : List PinAction) :
    observe o (a :: t) = observe (observeAction o a) t := rfl

/-- Observing a trace in two parts. -/
theorem observe_append (o : Pins × Panel) (t u : List PinAction) : observe o (t ++ u) = observe (observe o t) u := by
  simp [observe]

/-- The pins of an observation are those the trace leaves. -/
theorem observe_pins (o : Pins × Panel) (t : List PinAction) : (observe o t).1 = t.foldl pinsAfter o.1 := by
  induction t generalizing o with
  | nil => rfl
  | cons a t ih =>
    rw [observe_cons, ih]
    rfl

/-- Merging, one action at a time. -/
theorem mergeWaits_cons (a : PinAction) (t : List PinAction) : mergeWaits (a :: t) = consMerged a (mergeWaits t) := rfl

/-- An action that is no Wait is never merged. -/
theorem consMerged_other (a : PinAction) (t : List PinAction) (h : ∀ n, a ≠ .wait n) : consMerged a t = a :: t := by
  cases a <;> first | rfl | exact absurd rfl (h _)

/-- A plane is 128 Shifts. -/
theorem planeShifts_length (P : Ppb) (p : Fin 3) : (planeShifts P p).length = 128 := by
  rw [planeShifts, List.length_map, List.length_finRange]

/-- The three planes in order. -/
theorem flatMap_planes {α : Type} (f : Fin 3 → List α) : (List.finRange 3).flatMap f = f 0 ++ (f 1 ++ f 2) := by
  simp [List.finRange_succ]

/-- The 128 chain columns end with column 127. -/
theorem finRange_columns : List.finRange 128 = (List.finRange 127).map Fin.castSucc ++ [127] := by
  rw [List.finRange_succ_last]
  rfl

/-- Emitting a list of actions touches the pins and the trace only. -/
theorem emitAll_eq (acts : List PinAction) (s : State) :
    emitAll acts s = { s with pins := acts.foldl pinsAfter s.pins, trace := s.trace ++ acts } := by
  induction acts generalizing s with
  | nil => simp [emitAll]
  | cons a acts ih =>
    have h := ih (emit a s)
    simp only [emitAll, List.foldl_cons] at h ⊢
    rw [h]
    simp [emit]

end Sys2Proof.Machine
end

