-- ==== Sys2Proof/Laws/State.lean ====
section
/-! SUPPORT. One lemma per field per named state update, so that no proof unfolds a record update. -/

namespace Sys2Proof.Machine

/-! ### `setFresh` -/

@[simp] theorem setFresh_rib (v : Bool) (s : State) : (setFresh v s).rib = s.rib := rfl
@[simp] theorem setFresh_ppb (v : Bool) (s : State) : (setFresh v s).ppb = s.ppb := rfl
@[simp] theorem setFresh_dirty (v : Bool) (s : State) : (setFresh v s).dirty = s.dirty := rfl
@[simp] theorem setFresh_seq (v : Bool) (s : State) : (setFresh v s).seq = s.seq := rfl
@[simp] theorem setFresh_fresh (v : Bool) (s : State) : (setFresh v s).fresh = v := rfl
@[simp] theorem setFresh_pins (v : Bool) (s : State) : (setFresh v s).pins = s.pins := rfl
@[simp] theorem setFresh_stale (v : Bool) (s : State) : (setFresh v s).stale = s.stale := rfl
@[simp] theorem setFresh_undef (v : Bool) (s : State) : (setFresh v s).undef = s.undef := rfl
@[simp] theorem setFresh_ribWritten (v : Bool) (s : State) : (setFresh v s).ribWritten = s.ribWritten := rfl
@[simp] theorem setFresh_trace (v : Bool) (s : State) : (setFresh v s).trace = s.trace := rfl
@[simp] theorem setFresh_port (v : Bool) (s : State) : (setFresh v s).port = s.port := rfl
@[simp] theorem setFresh_resets (v : Bool) (s : State) : (setFresh v s).resets = s.resets := rfl
@[simp] theorem setFresh_cutShort (v : Bool) (s : State) : (setFresh v s).cutShort = s.cutShort := rfl

/-! ### `recordStale` -/

@[simp] theorem recordStale_rib (s : State) : (recordStale s).rib = s.rib := rfl
@[simp] theorem recordStale_ppb (s : State) : (recordStale s).ppb = s.ppb := rfl
@[simp] theorem recordStale_dirty (s : State) : (recordStale s).dirty = s.dirty := rfl
@[simp] theorem recordStale_seq (s : State) : (recordStale s).seq = s.seq := rfl
@[simp] theorem recordStale_fresh (s : State) : (recordStale s).fresh = s.fresh := rfl
@[simp] theorem recordStale_pins (s : State) : (recordStale s).pins = s.pins := rfl
@[simp] theorem recordStale_stale (s : State) : (recordStale s).stale = (s.stale || !s.fresh) := rfl
@[simp] theorem recordStale_undef (s : State) : (recordStale s).undef = s.undef := rfl
@[simp] theorem recordStale_ribWritten (s : State) : (recordStale s).ribWritten = s.ribWritten := rfl
@[simp] theorem recordStale_trace (s : State) : (recordStale s).trace = s.trace := rfl
@[simp] theorem recordStale_port (s : State) : (recordStale s).port = s.port := rfl
@[simp] theorem recordStale_resets (s : State) : (recordStale s).resets = s.resets := rfl
@[simp] theorem recordStale_cutShort (s : State) : (recordStale s).cutShort = s.cutShort := rfl

/-! ### `recordUndef` -/

@[simp] theorem recordUndef_rib (s : State) : (recordUndef s).rib = s.rib := rfl
@[simp] theorem recordUndef_ppb (s : State) : (recordUndef s).ppb = s.ppb := rfl
@[simp] theorem recordUndef_dirty (s : State) : (recordUndef s).dirty = s.dirty := rfl
@[simp] theorem recordUndef_seq (s : State) : (recordUndef s).seq = s.seq := rfl
@[simp] theorem recordUndef_fresh (s : State) : (recordUndef s).fresh = s.fresh := rfl
@[simp] theorem recordUndef_pins (s : State) : (recordUndef s).pins = s.pins := rfl
@[simp] theorem recordUndef_stale (s : State) : (recordUndef s).stale = s.stale := rfl
@[simp] theorem recordUndef_undef (s : State) : (recordUndef s).undef = (s.undef || someUnwritten s.ribWritten) := rfl
@[simp] theorem recordUndef_ribWritten (s : State) : (recordUndef s).ribWritten = s.ribWritten := rfl
@[simp] theorem recordUndef_trace (s : State) : (recordUndef s).trace = s.trace := rfl
@[simp] theorem recordUndef_port (s : State) : (recordUndef s).port = s.port := rfl
@[simp] theorem recordUndef_resets (s : State) : (recordUndef s).resets = s.resets := rfl
@[simp] theorem recordUndef_cutShort (s : State) : (recordUndef s).cutShort = s.cutShort := rfl

/-! ### `writeCell` -/

@[simp] theorem writeCell_rib (k : Fin 4) (x : Fin 64) (v : Pixel) (s : State) : (writeCell k x v s).rib = setCell s.rib k x v := rfl
@[simp] theorem writeCell_ppb (k : Fin 4) (x : Fin 64) (v : Pixel) (s : State) : (writeCell k x v s).ppb = s.ppb := rfl
@[simp] theorem writeCell_dirty (k : Fin 4) (x : Fin 64) (v : Pixel) (s : State) : (writeCell k x v s).dirty = s.dirty := rfl
@[simp] theorem writeCell_seq (k : Fin 4) (x : Fin 64) (v : Pixel) (s : State) : (writeCell k x v s).seq = s.seq := rfl
@[simp] theorem writeCell_fresh (k : Fin 4) (x : Fin 64) (v : Pixel) (s : State) : (writeCell k x v s).fresh = s.fresh := rfl
@[simp] theorem writeCell_pins (k : Fin 4) (x : Fin 64) (v : Pixel) (s : State) : (writeCell k x v s).pins = s.pins := rfl
@[simp] theorem writeCell_stale (k : Fin 4) (x : Fin 64) (v : Pixel) (s : State) : (writeCell k x v s).stale = s.stale := rfl
@[simp] theorem writeCell_undef (k : Fin 4) (x : Fin 64) (v : Pixel) (s : State) : (writeCell k x v s).undef = s.undef := rfl
@[simp] theorem writeCell_ribWritten (k : Fin 4) (x : Fin 64) (v : Pixel) (s : State) : (writeCell k x v s).ribWritten = setCell s.ribWritten k x true := rfl
@[simp] theorem writeCell_trace (k : Fin 4) (x : Fin 64) (v : Pixel) (s : State) : (writeCell k x v s).trace = s.trace := rfl
@[simp] theorem writeCell_port (k : Fin 4) (x : Fin 64) (v : Pixel) (s : State) : (writeCell k x v s).port = s.port := rfl
@[simp] theorem writeCell_resets (k : Fin 4) (x : Fin 64) (v : Pixel) (s : State) : (writeCell k x v s).resets = s.resets := rfl
@[simp] theorem writeCell_cutShort (k : Fin 4) (x : Fin 64) (v : Pixel) (s : State) : (writeCell k x v s).cutShort = s.cutShort := rfl

/-! ### `clearCells` -/

@[simp] theorem clearCells_rib (s : State) : (clearCells s).rib = Vector.replicate 4 (Vector.replicate 64 ⟨0, 0, 0⟩) := rfl
@[simp] theorem clearCells_ppb (s : State) : (clearCells s).ppb = s.ppb := rfl
@[simp] theorem clearCells_dirty (s : State) : (clearCells s).dirty = s.dirty := rfl
@[simp] theorem clearCells_seq (s : State) : (clearCells s).seq = s.seq := rfl
@[simp] theorem clearCells_fresh (s : State) : (clearCells s).fresh = s.fresh := rfl
@[simp] theorem clearCells_pins (s : State) : (clearCells s).pins = s.pins := rfl
@[simp] theorem clearCells_stale (s : State) : (clearCells s).stale = s.stale := rfl
@[simp] theorem clearCells_undef (s : State) : (clearCells s).undef = s.undef := rfl
@[simp] theorem clearCells_ribWritten (s : State) : (clearCells s).ribWritten = Vector.replicate 4 (Vector.replicate 64 true) := rfl
@[simp] theorem clearCells_trace (s : State) : (clearCells s).trace = s.trace := rfl
@[simp] theorem clearCells_port (s : State) : (clearCells s).port = s.port := rfl
@[simp] theorem clearCells_resets (s : State) : (clearCells s).resets = s.resets := rfl
@[simp] theorem clearCells_cutShort (s : State) : (clearCells s).cutShort = s.cutShort := rfl

/-! ### `writeQuarter` -/

@[simp] theorem writeQuarter_rib (q : BitVec 2) (v : BitVec 16) (s : State) : (writeQuarter q v s).rib = s.rib := rfl
@[simp] theorem writeQuarter_ppb (q : BitVec 2) (v : BitVec 16) (s : State) : (writeQuarter q v s).ppb = s.ppb := rfl
@[simp] theorem writeQuarter_dirty (q : BitVec 2) (v : BitVec 16) (s : State) : (writeQuarter q v s).dirty = setQuarter s.dirty q v := rfl
@[simp] theorem writeQuarter_seq (q : BitVec 2) (v : BitVec 16) (s : State) : (writeQuarter q v s).seq = s.seq := rfl
@[simp] theorem writeQuarter_fresh (q : BitVec 2) (v : BitVec 16) (s : State) : (writeQuarter q v s).fresh = s.fresh := rfl
@[simp] theorem writeQuarter_pins (q : BitVec 2) (v : BitVec 16) (s : State) : (writeQuarter q v s).pins = s.pins := rfl
@[simp] theorem writeQuarter_stale (q : BitVec 2) (v : BitVec 16) (s : State) : (writeQuarter q v s).stale = s.stale := rfl
@[simp] theorem writeQuarter_undef (q : BitVec 2) (v : BitVec 16) (s : State) : (writeQuarter q v s).undef = s.undef := rfl
@[simp] theorem writeQuarter_ribWritten (q : BitVec 2) (v : BitVec 16) (s : State) : (writeQuarter q v s).ribWritten = s.ribWritten := rfl
@[simp] theorem writeQuarter_trace (q : BitVec 2) (v : BitVec 16) (s : State) : (writeQuarter q v s).trace = s.trace := rfl
@[simp] theorem writeQuarter_port (q : BitVec 2) (v : BitVec 16) (s : State) : (writeQuarter q v s).port = s.port := rfl
@[simp] theorem writeQuarter_resets (q : BitVec 2) (v : BitVec 16) (s : State) : (writeQuarter q v s).resets = s.resets := rfl
@[simp] theorem writeQuarter_cutShort (q : BitVec 2) (v : BitVec 16) (s : State) : (writeQuarter q v s).cutShort = s.cutShort := rfl

/-! ### `emit` -/

@[simp] theorem emit_rib (a : PinAction) (s : State) : (emit a s).rib = s.rib := rfl
@[simp] theorem emit_ppb (a : PinAction) (s : State) : (emit a s).ppb = s.ppb := rfl
@[simp] theorem emit_dirty (a : PinAction) (s : State) : (emit a s).dirty = s.dirty := rfl
@[simp] theorem emit_seq (a : PinAction) (s : State) : (emit a s).seq = s.seq := rfl
@[simp] theorem emit_fresh (a : PinAction) (s : State) : (emit a s).fresh = s.fresh := rfl
@[simp] theorem emit_pins (a : PinAction) (s : State) : (emit a s).pins = pinsAfter s.pins a := rfl
@[simp] theorem emit_stale (a : PinAction) (s : State) : (emit a s).stale = s.stale := rfl
@[simp] theorem emit_undef (a : PinAction) (s : State) : (emit a s).undef = s.undef := rfl
@[simp] theorem emit_ribWritten (a : PinAction) (s : State) : (emit a s).ribWritten = s.ribWritten := rfl
@[simp] theorem emit_trace (a : PinAction) (s : State) : (emit a s).trace = s.trace ++ [a] := rfl
@[simp] theorem emit_port (a : PinAction) (s : State) : (emit a s).port = s.port := rfl
@[simp] theorem emit_resets (a : PinAction) (s : State) : (emit a s).resets = s.resets := rfl
@[simp] theorem emit_cutShort (a : PinAction) (s : State) : (emit a s).cutShort = s.cutShort := rfl

/-! ### `takeWord` -/

@[simp] theorem takeWord_rib (s : State) : (takeWord s).rib = s.rib := rfl
@[simp] theorem takeWord_ppb (s : State) : (takeWord s).ppb = s.ppb := rfl
@[simp] theorem takeWord_dirty (s : State) : (takeWord s).dirty = s.dirty := rfl
@[simp] theorem takeWord_seq (s : State) : (takeWord s).seq = s.seq := rfl
@[simp] theorem takeWord_fresh (s : State) : (takeWord s).fresh = s.fresh := rfl
@[simp] theorem takeWord_pins (s : State) : (takeWord s).pins = s.pins := rfl
@[simp] theorem takeWord_stale (s : State) : (takeWord s).stale = s.stale := rfl
@[simp] theorem takeWord_undef (s : State) : (takeWord s).undef = s.undef := rfl
@[simp] theorem takeWord_ribWritten (s : State) : (takeWord s).ribWritten = s.ribWritten := rfl
@[simp] theorem takeWord_trace (s : State) : (takeWord s).trace = s.trace := rfl
@[simp] theorem takeWord_port (s : State) : (takeWord s).port = portAccepted s.port := rfl
@[simp] theorem takeWord_resets (s : State) : (takeWord s).resets = s.resets := rfl
@[simp] theorem takeWord_cutShort (s : State) : (takeWord s).cutShort = s.cutShort := rfl

/-! ### `passStep` -/

@[simp] theorem passStep_rib (s : State) : (passStep s).rib = s.rib := rfl
@[simp] theorem passStep_ppb (s : State) : (passStep s).ppb = s.ppb := rfl
@[simp] theorem passStep_dirty (s : State) : (passStep s).dirty = s.dirty := rfl
@[simp] theorem passStep_seq (s : State) : (passStep s).seq = s.seq := rfl
@[simp] theorem passStep_fresh (s : State) : (passStep s).fresh = s.fresh := rfl
@[simp] theorem passStep_pins (s : State) : (passStep s).pins = s.pins := rfl
@[simp] theorem passStep_stale (s : State) : (passStep s).stale = s.stale := rfl
@[simp] theorem passStep_undef (s : State) : (passStep s).undef = s.undef := rfl
@[simp] theorem passStep_ribWritten (s : State) : (passStep s).ribWritten = s.ribWritten := rfl
@[simp] theorem passStep_trace (s : State) : (passStep s).trace = s.trace := rfl
@[simp] theorem passStep_port (s : State) : (passStep s).port = portWaited s.port := rfl
@[simp] theorem passStep_resets (s : State) : (passStep s).resets = s.resets := rfl
@[simp] theorem passStep_cutShort (s : State) : (passStep s).cutShort = s.cutShort := rfl

/-! ### `startSequence` -/

@[simp] theorem startSequence_rib (a : ScanAddr) (s : State) : (startSequence a s).rib = s.rib := rfl
@[simp] theorem startSequence_ppb (a : ScanAddr) (s : State) : (startSequence a s).ppb = s.ppb := rfl
@[simp] theorem startSequence_dirty (a : ScanAddr) (s : State) : (startSequence a s).dirty = s.dirty := rfl
@[simp] theorem startSequence_seq (a : ScanAddr) (s : State) : (startSequence a s).seq = { s.seq with addr := a, plane := 0, col := 0, phase := .blankIn } := rfl
@[simp] theorem startSequence_fresh (a : ScanAddr) (s : State) : (startSequence a s).fresh = false := rfl
@[simp] theorem startSequence_pins (a : ScanAddr) (s : State) : (startSequence a s).pins = s.pins := rfl
@[simp] theorem startSequence_stale (a : ScanAddr) (s : State) : (startSequence a s).stale = (s.stale || !s.fresh) := rfl
@[simp] theorem startSequence_undef (a : ScanAddr) (s : State) : (startSequence a s).undef = s.undef := rfl
@[simp] theorem startSequence_ribWritten (a : ScanAddr) (s : State) : (startSequence a s).ribWritten = s.ribWritten := rfl
@[simp] theorem startSequence_trace (a : ScanAddr) (s : State) : (startSequence a s).trace = s.trace := rfl
@[simp] theorem startSequence_port (a : ScanAddr) (s : State) : (startSequence a s).port = s.port := rfl
@[simp] theorem startSequence_resets (a : ScanAddr) (s : State) : (startSequence a s).resets = s.resets := rfl
@[simp] theorem startSequence_cutShort (a : ScanAddr) (s : State) : (startSequence a s).cutShort = s.cutShort := rfl

/-! ### `packBuffer` -/

@[simp] theorem packBuffer_rib (m : PixelMap) (s : State) : (packBuffer m s).rib = s.rib := rfl
@[simp] theorem packBuffer_ppb (m : PixelMap) (s : State) : (packBuffer m s).ppb = packRows m s.rib := rfl
@[simp] theorem packBuffer_dirty (m : PixelMap) (s : State) : (packBuffer m s).dirty = s.dirty := rfl
@[simp] theorem packBuffer_seq (m : PixelMap) (s : State) : (packBuffer m s).seq = s.seq := rfl
@[simp] theorem packBuffer_fresh (m : PixelMap) (s : State) : (packBuffer m s).fresh = true := rfl
@[simp] theorem packBuffer_pins (m : PixelMap) (s : State) : (packBuffer m s).pins = s.pins := rfl
@[simp] theorem packBuffer_stale (m : PixelMap) (s : State) : (packBuffer m s).stale = s.stale := rfl
@[simp] theorem packBuffer_undef (m : PixelMap) (s : State) : (packBuffer m s).undef = (s.undef || someUnwritten s.ribWritten) := rfl
@[simp] theorem packBuffer_ribWritten (m : PixelMap) (s : State) : (packBuffer m s).ribWritten = s.ribWritten := rfl
@[simp] theorem packBuffer_trace (m : PixelMap) (s : State) : (packBuffer m s).trace = s.trace := rfl
@[simp] theorem packBuffer_port (m : PixelMap) (s : State) : (packBuffer m s).port = s.port := rfl
@[simp] theorem packBuffer_resets (m : PixelMap) (s : State) : (packBuffer m s).resets = s.resets := rfl
@[simp] theorem packBuffer_cutShort (m : PixelMap) (s : State) : (packBuffer m s).cutShort = s.cutShort := rfl

/-! ### `takeReset` -/

@[simp] theorem takeReset_dirty (s : State) : (takeReset s).dirty = 0 := rfl
@[simp] theorem takeReset_seq (s : State) : (takeReset s).seq = Seq.reset := rfl
@[simp] theorem takeReset_fresh (s : State) : (takeReset s).fresh = false := rfl
@[simp] theorem takeReset_pins (s : State) : (takeReset s).pins = Pins.reset := rfl
@[simp] theorem takeReset_stale (s : State) : (takeReset s).stale = false := rfl
@[simp] theorem takeReset_undef (s : State) : (takeReset s).undef = false := rfl
@[simp] theorem takeReset_trace (s : State) : (takeReset s).trace = [] := rfl
@[simp] theorem takeReset_port (s : State) : (takeReset s).port = portWaited s.port := rfl
@[simp] theorem takeReset_resets (s : State) : (takeReset s).resets = s.resets + 1 := rfl
@[simp] theorem takeReset_cutShort (s : State) : (takeReset s).cutShort = cutsShort s := rfl

end Sys2Proof.Machine
end

