-- ==== Sys2Proof/Laws/Ops.lean ====
section
/-! SUPPORT. What the shared operations can do, said once: acceptance, the host's side, the sequencer, one step. -/

namespace Sys2Proof.Machine

/-- ready = 1 is the IDLE phase. -/
theorem ready_iff (s : State) : s.ready = true ↔ s.seq.phase = .idle := by
  simp [State.ready]

/-- In IDLE a command's rule runs. -/
theorem accept_idle (f : State → State) (s : State) (h : s.seq.phase = .idle) : accept f s = .next (f s) := by
  simp [accept, State.ready, h]

/-- Outside IDLE a command is not seen. -/
theorem accept_busy (f : State → State) (s : State) (h : s.seq.phase ≠ .idle) : accept f s = .next s := by
  simp [accept, State.ready, h]

/-! ### Each command is the acceptance of its rule -/

theorem exec_nop (s : State) : exec .nop s = accept id s := rfl

theorem exec_wrpix (slot : BitVec 2) (col : BitVec 6) (r g b : BitVec 3) (s : State) :
    exec (.wrpix slot col r g b) s = accept (writeCell (slotIndex slot) (colIndex col) ⟨r, g, b⟩) s := rfl

theorem exec_clrrows (s : State) : exec .clrrows s = accept clearCells s := rfl

theorem exec_pack (s : State) : exec .pack s = accept (packBuffer Config.pixelMap) s := rfl

theorem exec_render (a : BitVec 4) (s : State) : exec (.render a) s = accept (startSequence a) s := rfl

theorem exec_wrdirty (q : BitVec 2) (v : BitVec 16) (s : State) :
    exec (.wrdirty q v) s = accept (writeQuarter q v) s := rfl

theorem exec_renderd (a : BitVec 4) (s : State) :
    exec (.renderd a) s = accept (startIfDirty Config.pixelMap a) s := rfl

theorem exec_reserved7 (s : State) : exec .reserved7 s = accept id s := rfl

theorem exec_reserved8f (op : BitVec 4) (s : State) : exec (.reserved8f op) s = accept id s := rfl

/-! ### The step -/

/-- The step with reset asserted. -/
theorem step_reset (s : State) (h : resetAsserted s = true) : step s = .next (takeReset s) := by
  simp [step, h]

/-- When a reset leaves the panel's shift list open. -/
theorem cutsShort_iff (s : State) :
    cutsShort s = true ↔ s.seq.phase ≠ .idle ∨ (s.cutShort = true ∧ s.trace = []) := by
  simp [cutsShort, State.ready]

/-- The step that accepts a word. -/
theorem step_accept (s : State) (w : Word) (hr : resetAsserted s = false) (hw : acceptedWord s = some w) :
    step s = exec (decode w) (takeWord s) := by
  simp [step, hr, hw]

/-- The step that accepts nothing. -/
theorem step_pass (s : State) (hr : resetAsserted s = false) (hw : acceptedWord s = none) :
    step s = .next (sequencerStep Config.baseDelay (passStep s)) := by
  simp [step, hr, hw]

/-- Everything a step can do. -/
theorem step_cases (s t : State) (h : step s = .next t) :
    (resetAsserted s = true ∧ t = takeReset s) ∨
    (resetAsserted s = false ∧ ∃ w, acceptedWord s = some w ∧ exec (decode w) (takeWord s) = .next t) ∨
    (resetAsserted s = false ∧ acceptedWord s = none ∧ t = sequencerStep Config.baseDelay (passStep s)) := by
  by_cases hr : resetAsserted s = true
  · rw [step_reset s hr] at h
    exact .inl ⟨hr, by injection h with h; exact h.symm⟩
  · have hr : resetAsserted s = false := by simpa using hr
    cases hw : acceptedWord s with
    | some w =>
      rw [step_accept s w hr hw] at h
      exact .inr (.inl ⟨hr, w, rfl, h⟩)
    | none =>
      rw [step_pass s hr hw] at h
      exact .inr (.inr ⟨hr, rfl, by injection h with h; exact h.symm⟩)

/-- A word is accepted only in IDLE, and it is the first on the port. -/
theorem acceptedWord_some (s : State) (w : Word) (h : acceptedWord s = some w) :
    s.seq.phase = .idle ∧ ∃ ws, s.port.words = some w :: ws := by
  unfold acceptedWord at h
  split at h
  · rename_i hr
    refine ⟨(ready_iff s).1 hr, ?_⟩
    cases hp : s.port.words with
    | nil => simp [hp] at h
    | cons a ws =>
      simp only [hp, List.headD_cons] at h
      exact ⟨ws, by rw [h]⟩
  · cases h

/-- The sequencer touches only its own registers, the pins and the trace. -/
theorem sequencerStep_frame (B : Nat) (s : State) :
    ∃ q p acts, sequencerStep B s = { s with seq := q, pins := p, trace := s.trace ++ acts } := by
  unfold sequencerStep
  cases s.seq.phase with
  | idle => exact ⟨s.seq, s.pins, [], by simp⟩
  | blankIn => exact ⟨_, _, _, rfl⟩
  | setRow => exact ⟨_, _, _, rfl⟩
  | shift => by_cases h : s.seq.col < 127#7 <;> simp only [h, if_true, if_false] <;> exact ⟨_, _, _, rfl⟩
  | latch => exact ⟨_, _, _, rfl⟩
  | on => exact ⟨_, _, _, rfl⟩
  | expose => by_cases h : 1 < s.seq.timer <;> simp only [h, if_true, if_false] <;> exact ⟨_, _, _, rfl⟩
  | off => by_cases h : s.seq.plane < 2 <;> simp only [h, if_true, if_false] <;> exact ⟨_, _, _, rfl⟩

/-- Emitting a list of actions: the pins they leave, the trace they append, nothing else. -/
theorem emit_frame (a : PinAction) (s : State) :
    emit a s = { s with pins := pinsAfter s.pins a, trace := s.trace ++ [a] } := rfl

end Sys2Proof.Machine
end

