-- ==== Sys2Proof/Laws/PerInstr.lean ====
section
/-! SUPPORT. Per-command statements: a family's `Statement` and one lemma per constructor of `Instr`. -/

/-- The opcode field of a command's word is the command's opcode (30_encoding.md R58, R63). -/
def Sys2Proof.Laws.OpcodeField.Statement (i : Sys2Proof.Instr) : Prop :=
  Sys2Proof.opcodeField (Sys2Proof.encode i) = i.opcode

namespace Sys2Proof.Laws.OpcodeField

open Sys2Proof

theorem formatN_opcode (op : BitVec 4) : opcodeField (formatN op) = op := by
  simp [opcodeField, formatN, extract_field_self]

theorem formatP_opcode (op : BitVec 4) (slot : BitVec 2) (col : BitVec 6) (r g b : BitVec 3) :
    opcodeField (formatP op slot col r g b) = op := by
  simp [opcodeField, formatP, extract_or, extract_field_self, extract_field_above]

theorem formatA_opcode (op addr : BitVec 4) : opcodeField (formatA op addr) = op := by
  simp [opcodeField, formatA, extract_or, extract_field_self, extract_field_above]

theorem formatQ_opcode (op : BitVec 4) (q : BitVec 2) (value : BitVec 16) : opcodeField (formatQ op q value) = op := by
  simp [opcodeField, formatQ, extract_or, extract_field_self, extract_field_above]

theorem nop : Statement .nop := formatN_opcode _
theorem wrpix (slot : BitVec 2) (col : BitVec 6) (r g b : BitVec 3) : Statement (.wrpix slot col r g b) :=
  formatP_opcode _ slot col r g b
theorem clrrows : Statement .clrrows := formatN_opcode _
theorem pack : Statement .pack := formatN_opcode _
theorem render (addr : BitVec 4) : Statement (.render addr) := formatA_opcode _ addr
theorem wrdirty (q : BitVec 2) (value : BitVec 16) : Statement (.wrdirty q value) := formatQ_opcode _ q value
theorem renderd (addr : BitVec 4) : Statement (.renderd addr) := formatA_opcode _ addr
theorem reserved7 : Statement .reserved7 := formatN_opcode _
theorem reserved8f (op : BitVec 4) : Statement (.reserved8f op) := formatN_opcode op

end Sys2Proof.Laws.OpcodeField
end

