-- ==== Sys2Proof/Laws/Safety.lean ====
section
/-! SUPPORT. Running several steps. -/

namespace Sys2Proof.Safety

open Sys2Proof.Machine

/-- Running no step. -/
theorem runSteps_zero (s : State) : runSteps 0 s = .next s := rfl

/-- Running one more step, at the front. -/
theorem runSteps_succ (n : Nat) (s t : State) (h : step s = .next t) : runSteps (n + 1) s = runSteps n t := by
  simp only [runSteps, h]

/-- Running in two parts. -/
theorem runSteps_add (m n : Nat) (s t : State) (h : runSteps m s = .next t) : runSteps (m + n) s = runSteps n t := by
  induction m generalizing s with
  | zero =>
    cases h
    rw [Nat.zero_add]
  | succ m ih =>
    cases e : step s with
    | next u =>
      rw [runSteps_succ m s u e] at h
      rw [Nat.succ_add, runSteps_succ (m + n) s u e]
      exact ih u h
    | fault r =>
      simp only [runSteps, e] at h
      cases h
    | refused r =>
      simp only [runSteps, e] at h
      cases h

/-- One more step of the host's `run`, at the front. -/
theorem coreRun_next (M : Host.Core) (n : Nat) (s t : M.State) (h : M.step s = .next t) :
    M.run (n + 1) s = M.run n t := by
  simp only [Host.Core.run, h]

/-- The host's `run` stops at a fault. -/
theorem coreRun_fault (M : Host.Core) (n : Nat) (s : M.State) (r : M.Fault) (h : M.step s = .fault r) :
    M.run (n + 1) s = .fault r := by
  simp only [Host.Core.run, h]

/-- The host's `run` stops at a refusal. -/
theorem coreRun_refused (M : Host.Core) (n : Nat) (s : M.State) (r : M.Refusal) (h : M.step s = .refused r) :
    M.run (n + 1) s = .refused r := by
  simp only [Host.Core.run, h]

/-- `runSteps` is the host's `run` of the machine. -/
theorem runSteps_eq_core_run (n : Nat) (s : State) : runSteps n s = Host.Core.run Sys2Proof.core n s := by
  induction n generalizing s with
  | zero => rfl
  | succ n ih =>
    cases e : step s with
    | next t =>
      rw [runSteps_succ n s t e, ih t]
      exact (coreRun_next Sys2Proof.core n s t e).symm
    | fault r =>
      have h : runSteps (n + 1) s = .fault r := by simp only [runSteps, e]
      exact h.trans (coreRun_fault Sys2Proof.core n s r e).symm
    | refused r =>
      have h : runSteps (n + 1) s = .refused r := by simp only [runSteps, e]
      exact h.trans (coreRun_refused Sys2Proof.core n s r e).symm

end Sys2Proof.Safety
end

