-- ==== Sys2Proof/Tests/Slice0.lean ====
section
/-! SUPPORT. The model's own tests: expected values from 95_test_vectors.md (its ids are named) or worked out by hand from the
rules, and for every statement of Certificates/Slice0/Obligations.lean that has hypotheses a witness that meets them. -/

namespace Sys2Proof.Tests

open Sys2Proof.Machine Sys2Proof.Safety

/-! ## A small state -/

/-- A ready block with every store zero, nothing written, nothing presented. -/
def blank : State where
  rib        := Vector.replicate 4 (Vector.replicate 64 ⟨0, 0, 0⟩)
  ppb        := Vector.replicate 3 (Vector.replicate 128 0)
  dirty      := 0
  seq        := Seq.reset
  fresh      := false
  pins       := Pins.reset
  stale      := false
  undef      := false
  ribWritten := Vector.replicate 4 (Vector.replicate 64 false)
  trace      := []
  port       := HostPort.quiet
  resets     := 0
  cutShort   := false

/-- The dirty mask of V-L1-7: rows 25 to 35. -/
def rows25to35 : BitVec 64 := 0x0000000FFE000000#64

/-- `blank` in a phase of the sequencer. -/
def inPhase (ph : Phase) (plane : Fin 3) (col : BitVec 7) (timer : Nat) : State :=
  { blank with seq := { phase := ph, addr := 7, plane := plane, col := col, timer := timer } }

/-- `blank` with a host side. -/
def withPort (words : List (Option Word)) (resets : List Bool) (s : State) : State :=
  { s with port := { words := words, resets := resets } }

/-- The next state of an outcome that has one. -/
def nextOr (s : State) : Host.Outcome State Fault Refusal → State
  | .next t => t
  | .fault _ => s
  | .refused _ => s

/-- The state after one command. -/
def after (i : Instr) (s : State) : State := nextOr s (exec i s)

/-! ## Well-formedness: the one check -/

theorem test_wf_reserved8f_low : (Instr.reserved8f 0x7#4).wf = false := by decide
theorem test_wf_reserved8f_first : (Instr.reserved8f 0x8#4).wf = true := by decide

/-! ## Decoding: words written out from the format tables (30_encoding.md R61; V-ENC-1 to V-ENC-14) -/

theorem test_decode_nop : decode 0b0000_0000000000000000000000000000#32 = .nop := by decide
theorem test_decode_wrpix : decode 0b0001_00_10_00_000101_0000000_011_000_111#32 = .wrpix 2 5 7 0 3 := by decide
theorem test_decode_wrpix_top : decode 0b0001_00_11_00_111111_0000000_111_111_111#32 = .wrpix 3 63 7 7 7 := by decide
theorem test_decode_wrpix_green : decode 0x110A0028#32 = .wrpix 1 10 0 5 0 := by decide
theorem test_decode_clrrows : decode 0b0010_0000000000000000000000000000#32 = .clrrows := by decide
theorem test_decode_pack : decode 0b0011_0000000000000000000000000000#32 = .pack := by decide
theorem test_decode_render : decode 0b0100_000000000000000000000000_0101#32 = .render 5 := by decide
theorem test_decode_wrdirty : decode 0b0101_0000000000_01_1111111000000000#32 = .wrdirty 1 0xFE00 := by decide
theorem test_decode_renderd : decode 0b0110_000000000000000000000000_1001#32 = .renderd 9 := by decide
theorem test_decode_reserved7 : decode 0b0111_0000000000000000000000000000#32 = .reserved7 := by decide
theorem test_decode_reserved8 : decode 0b1000_0000000000000000000000000000#32 = .reserved8f 8 := by decide
theorem test_decode_reserved15 : decode 0xFFFFFFFF#32 = .reserved8f 15 := by decide
theorem test_decode_ignores_reserved_p : decode 0x1F3F01FF#32 = .wrpix 3 63 7 7 7 := by decide
theorem test_decode_ignores_reserved_a : decode 0x4FFFFFF5#32 = .render 5 := by decide
theorem test_decode_ignores_reserved_q : decode 0x5FFE000F#32 = .wrdirty 2 0x000F := by decide
theorem test_encode_wrpix : encode (.wrpix 2 5 7 0 3) = 0x120500C7#32 := by decide
theorem test_encode_wrdirty : encode (.wrdirty 2 0x000F) = 0x5002000F#32 := by decide
theorem test_encode_renderd : encode (.renderd 9) = 0x60000009#32 := by decide
theorem test_decodeTableWord : decodeTableWord 32 0x120500C7 = some (.wrpix 2 5 7 0 3) := by decide
theorem test_decodeTableWord_long : decodeTableWord 40 0 = none := by decide

/-! ## Buffer commands (V-BUF) -/

theorem test_wrpix_cell :
    (after (.wrpix 2 5 7 0 3) blank).rib[2][5] = ⟨7, 0, 3⟩ ∧ (after (.wrpix 2 5 7 0 3) blank).rib[2][6] = ⟨0, 0, 0⟩ ∧
      (after (.wrpix 2 5 7 0 3) blank).rib[3][5] = ⟨0, 0, 0⟩ := by decide
theorem test_wrpix_written :
    (after (.wrpix 3 63 7 7 7) blank).ribWritten[3][63] = true ∧
      (after (.wrpix 3 63 7 7 7) blank).ribWritten[2][63] = false := by decide
theorem test_clrrows :
    (after .clrrows { blank with rib := Vector.replicate 4 (Vector.replicate 64 ⟨1, 2, 3⟩) }).rib[3][63] = ⟨0, 0, 0⟩ ∧
      (after .clrrows blank).ribWritten[0][0] = true := by decide
theorem test_wrdirty : (after (.wrdirty 1 0xFE00) blank).dirty = 0x00000000FE000000#64 := by decide
theorem test_wrdirty_keeps_others :
    (after (.wrdirty 3 0x0000) { blank with dirty := 0xFFFFFFFFFFFFFFFF#64 }).dirty = 0x0000FFFFFFFFFFFF#64 := by decide
theorem test_reserved : after (.reserved8f 15) blank = blank := rfl

/-! ## PACK (V-PACK) -/

/-- The rows of V-PACK-3. -/
def rowsPack3 : State := after (.wrpix 0 0 5 3 6) (after (.wrpix 1 0 1 0 7) (after .clrrows blank))

/-- The rows of V-PACK-4. -/
def rowsPack4 : State := after (.wrpix 2 0 1 2 4) (after (.wrpix 3 63 7 0 0) (after .clrrows blank))

theorem test_pack_bytes :
    (after .pack rowsPack3).ppb[0][0] = 0x2B#8 ∧ (after .pack rowsPack3).ppb[1][0] = 0x26#8 ∧
      (after .pack rowsPack3).ppb[2][0] = 0x25#8 ∧ (after .pack rowsPack3).ppb[2][64] = 0x00#8 := by decide +kernel
theorem test_pack_half_one :
    (after .pack rowsPack4).ppb[0][64] = 0x01#8 ∧ (after .pack rowsPack4).ppb[1][64] = 0x02#8 ∧
      (after .pack rowsPack4).ppb[2][64] = 0x04#8 ∧ (after .pack rowsPack4).ppb[1][127] = 0x08#8 := by decide +kernel
theorem test_pack_undef :
    (after .pack (after (.wrpix 0 0 7 7 7) blank)).undef = true ∧ (after .pack rowsPack3).undef = false ∧
      (after .pack rowsPack3).fresh = true := by decide +kernel

/-- V-PACK-11 on V-PACK-3's rows, at two cells. -/
theorem test_unpack :
    (unpackRows PixelMap.default (after .pack rowsPack3).ppb)[0][0] = ⟨5, 3, 6⟩ ∧
      (unpackRows PixelMap.default (after .pack rowsPack3).ppb)[1][0] = ⟨1, 0, 7⟩ := by decide +kernel

/-! ## The address mask (V-AM) -/

theorem test_addrMask_rows25to35 : addrMask PixelMap.default rows25to35 = 0xFE0F#16 := by decide +kernel
theorem test_addrMask_row48 : addrMask PixelMap.default 0x0001000000000000#64 = 0x0001#16 := by decide +kernel
theorem test_addrMask_row63 : addrMask PixelMap.default 0x8000000000000000#64 = 0x8000#16 := by decide +kernel
theorem test_addrMask_rows15and47 : addrMask PixelMap.default 0x0000800000008000#64 = 0x8000#16 := by decide +kernel

/-! ## RENDER, RENDERD and the sequencer (V-SEQ, V-RD, V-EXP) -/

theorem test_render_starts :
    (after (.render 7) { blank with fresh := true }).seq = { phase := .blankIn, addr := 7, plane := 0, col := 0, timer := 0 } ∧
      (after (.render 7) { blank with fresh := true }).fresh = false ∧
      (after (.render 7) { blank with fresh := true }).stale = false := by decide
theorem test_render_records_stale : (after (.render 7) blank).stale = true := by decide
theorem test_renderd_clean : after (.renderd 4) { blank with dirty := rows25to35 } = { blank with dirty := rows25to35 } := by
  decide +kernel
theorem test_renderd_dirty :
    (after (.renderd 9) { blank with dirty := rows25to35, fresh := true }).seq.addr = 9 ∧
      (after (.renderd 9) { blank with dirty := rows25to35, fresh := true }).ready = false := by decide +kernel
theorem test_seq_shift_126 : (sequencerStep 3 (inPhase .shift 1 126 0)).seq = (inPhase .shift 1 127 0).seq := by decide
theorem test_seq_shift_127 : (sequencerStep 3 (inPhase .shift 1 127 0)).seq = (inPhase .latch 1 0 0).seq := by decide
theorem test_seq_on : (sequencerStep 3 (inPhase .on 2 0 0)).seq = (inPhase .expose 2 0 12).seq := by decide
theorem test_seq_expose_last : (sequencerStep 3 (inPhase .expose 1 0 1)).seq = (inPhase .off 1 0 0).seq := by decide
theorem test_seq_off_plane_0 : (sequencerStep 3 (inPhase .off 0 0 0)).seq = (inPhase .shift 1 0 0).seq := by decide
theorem test_seq_off_plane_2 : (sequencerStep 3 (inPhase .off 2 0 0)).seq = (inPhase .idle 0 0 0).seq := by decide
theorem test_seq_shift_word :
    (sequencerStep 3 { after .pack rowsPack3 with seq := (inPhase .shift 0 0 0).seq }).pins.data = 0b101011#6 := by
  decide +kernel

/-- V-SEQ-8: reset in EXPOSE. -/
theorem test_reset_ends_a_sequence :
    (nextOr blank (step (withPort [] [true] (inPhase .expose 1 0 5)))).seq = Seq.reset ∧
      (nextOr blank (step (withPort [] [true] (inPhase .expose 1 0 5)))).pins = Pins.reset := by decide

/-- SR is empty after a reset in IDLE, and open after one that cut a sequence, for as long as reset is held (U6). -/
theorem test_reset_cutShort :
    (takeReset blank).cutShort = false ∧ (takeReset (inPhase .shift 1 5 0)).cutShort = true ∧
      (takeReset (takeReset (inPhase .shift 1 5 0))).cutShort = true := by decide

/-! ## Actions, traces and the panel (V-EXP, V-REN, 42_matrix_driver.md R88, R103) -/

theorem test_exposureDuration :
    exposureDuration 10 0 = 10 ∧ exposureDuration 10 1 = 20 ∧ exposureDuration 10 2 = 40 := by decide
theorem test_mergeWaits :
    mergeWaits [.setOE true, .wait 1, .wait 1, .setOE false, .wait 1] = [.setOE true, .wait 2, .setOE false, .wait 1] := by
  decide
theorem test_render_trace_head :
    (renderTrace 1 3 blank.ppb).take 3 = [.setOE false, .setRow 3, .shift 0] ∧
      (renderTrace 1 3 blank.ppb).drop 394 = [.pulseLatch, .setOE true, .wait 4, .setOE false] := by decide +kernel
theorem test_render_trace_waits :
    (renderTrace 1 3 blank.ppb)[130]? = some .pulseLatch ∧ (renderTrace 1 3 blank.ppb)[132]? = some (.wait 1) ∧
      (renderTrace 1 3 blank.ppb)[264]? = some (.wait 2) := by decide +kernel
theorem test_short_chain_latches_nothing :
    (panelAfter Pins.reset { panelReset false 0 with sr := [1, 2], latched := Vector.replicate 128 0 } .pulseLatch).latched =
      Vector.replicate 128 0 := by decide +kernel

/-! ## The assembler (30_encoding.md R68, R69; V-ENC-3, V-ENC-15, V-ENC-16) -/

theorem test_asm_line :
    assembleLine ("  WRPIX 2, 5, 7, 0, 3  ; a pixel").toList = some [0x120500C7#32] := by decide
theorem test_asm_hex : assembleLine ("WRDIRTY 1, 0xFE00").toList = some [0x5001FE00#32] := by decide
theorem test_asm_slot_error : assembleLine ("WRPIX 4, 0, 0, 0, 0").toList = none := by decide
theorem test_asm_addr_error : assembleLine ("RENDER 16").toList = none := by decide
theorem test_asm_program :
    assembleProgram [("; nothing").toList, ("SCAN 5").toList, ("SETDIRTY 0x0000000FFE000000").toList] =
      some [0x30000000#32, 0x40000005#32, 0x50000000#32, 0x5001FE00#32, 0x5002000F#32, 0x50030000#32] := by decide +kernel
theorem test_asm_pixel : parsePixel ("( 5, 3,6)").toList = some ⟨5, 3, 6⟩ := by decide

/-! ## The host's two definitions -/

theorem test_withFetchWord :
    step (blank.withFetchWord 32 0x120500C7) = exec (.wrpix 2 5 7 0 3) (withPort [] [] blank) := rfl
theorem test_first_after_reset :
    step (State.reset.withFetchWord 32 0x40000003) = exec (.render 3) (withPort [] [] State.reset) := rfl

/-! ## Witnesses: for each statement with hypotheses, states and operands that meet them, clause by clause -/

/-- A finished exposure of plane 0 of address 7, at the first column of plane 1: its trace has every kind of action. -/
def tracePlane0 (baseDelay : Nat) : List PinAction :=
  [.setOE false, .setRow 7] ++ List.replicate 128 (.shift 0) ++
    [.pulseLatch, .setOE true, .wait (exposureDuration baseDelay 0), .setOE false]

/-- The state after that trace. -/
def afterPlane0 : State :=
  { inPhase .shift 1 0 0 with trace := tracePlane0 Config.baseDelay, pins := { Pins.reset with row := 7 } }

theorem monitor_shifts (baseDelay n : Nat) (m : Monitor) (h : m.oe = false) :
    (List.replicate n (PinAction.shift 0)).foldl (fun m a => m.bind fun m => monitorAction baseDelay m a) (some m) =
      some { m with shifts := m.shifts + n } := by
  induction n generalizing m with
  | zero => rfl
  | succ n ih =>
    rw [List.replicate_succ, List.foldl_cons]
    have e : ((some m).bind fun m => monitorAction baseDelay m (.shift 0)) = some { m with shifts := m.shifts + 1 } := by
      simp [monitorAction, h]
    rw [e, ih { m with shifts := m.shifts + 1 } h, Nat.add_assoc, Nat.add_comm 1 n]

theorem monitor_plane0 (baseDelay : Nat) :
    monitorTrace baseDelay (tracePlane0 baseDelay) = some { oe := false, shifts := 0, latches := 1, lit := baseDelay } := by
  rw [monitorTrace, tracePlane0, List.foldl_append, List.foldl_append]
  have e : [PinAction.setOE false, .setRow 7].foldl (fun m a => m.bind fun m => monitorAction baseDelay m a)
      (some Monitor.start) = some Monitor.start := rfl
  rw [e, monitor_shifts baseDelay 128 _ rfl]
  simp [monitorAction, Monitor.start, exposureDuration]

theorem pins_shifts (n : Nat) (p : Pins) (hd : p.data = 0) (hc : p.clk = false) :
    (List.replicate n (PinAction.shift 0)).foldl pinsAfter p = p := by
  induction n with
  | zero => rfl
  | succ n ih =>
    rw [List.replicate_succ, List.foldl_cons]
    have e : pinsAfter p (.shift 0) = p := by
      cases p
      cases hd
      cases hc
      rfl
    rw [e, ih]

theorem pins_plane0 (baseDelay : Nat) :
    (tracePlane0 baseDelay).foldl pinsAfter Pins.reset = { Pins.reset with row := 7 } := by
  rw [tracePlane0, List.foldl_append, List.foldl_append]
  have e : [PinAction.setOE false, .setRow 7].foldl pinsAfter Pins.reset = { Pins.reset with row := 7 } := rfl
  rw [e, pins_shifts 128 _ rfl rfl]
  rfl

theorem witness_runInv_afterPlane0 : runInv afterPlane0 := by
  refine ⟨⟨rfl, rfl, rfl, fun _ => rfl, rfl, fun h => absurd rfl h, fun h => ?_⟩, ⟨_, monitor_plane0 _, rfl, rfl, rfl⟩,
    (pins_plane0 _).symm⟩
  cases h

theorem witness_seqInv_blank : seqInv Config.baseDelay blank :=
  ⟨rfl, rfl, rfl, fun _ => rfl, rfl, fun _ => rfl, fun _ => rfl⟩

/-- A block in EXPOSE with one delay unit left. -/
def lastUnit : State := { inPhase .expose 0 0 1 with pins := { Pins.reset with row := 7, oe := true } }

theorem witness_seqInv_lastUnit : seqInv Config.baseDelay lastUnit := by
  refine ⟨rfl, rfl, rfl, fun _ => rfl, ?_, fun _ => rfl, fun h => ?_⟩
  · exact ⟨Nat.le_refl 1, by simp [exposureDuration, lastUnit, inPhase, Config.baseDelay]⟩
  · cases h

theorem witness_noReset (n : Nat) (words : List (Option Word)) (s : State) : noResetFor n (withPort words [] s) :=
  fun _ _ => rfl

/-- The default pixel map is legal (41_packer.md R74): the hypothesis of UnpackInvertsPack, FullFrameShowsTheImage and a clause
of PackColumnsAreIndependent. -/
theorem witness_legal : PixelMap.default.Legal := by
  constructor
  · decide +kernel
  · exact fun h => ⟨fun _ _ e => e, fun y => ⟨y, rfl⟩⟩

/-! ### Reset and the step -/

theorem witness_ResetStepEndsEverything :
    resetAsserted (withPort [] [true] blank) = true ∧
      resetAsserted (withPort [some 0x30000000#32] [true, false] (inPhase .shift 2 127 0)) = true := by decide

theorem witness_StepRunsTheDecodedCommand :
    resetAsserted (withPort [some 0x30000000#32] [false] blank) = false ∧
      (withPort [some 0x30000000#32] [false] blank).seq.phase = .idle ∧
      (withPort [some 0x30000000#32] [false] blank).port.words = some 0x30000000#32 :: [] := by decide

theorem witness_BusyStepHoldsTheWord :
    resetAsserted (withPort [some 0x30000000#32] [] (inPhase .expose 2 0 1)) = false ∧
      (withPort [some 0x30000000#32] [] (inPhase .expose 2 0 1)).seq.phase ≠ .idle ∧
      (withPort [some 0x30000000#32] [] (inPhase .expose 2 0 1)).port.words = some 0x30000000#32 :: [] := by decide

theorem witness_IdleStepChangesNothing :
    resetAsserted blank = false ∧ blank.seq.phase = .idle ∧ blank.port.words.headD none = none ∧
      (withPort [none, some 0x30000000#32] [] blank).port.words.headD none = none := by decide

theorem witness_BusyBlockSeesNoCommand :
    (inPhase .blankIn 0 0 0).seq.phase ≠ .idle ∧ (inPhase .off 2 0 0).seq.phase ≠ .idle := by decide

/-! ### The commands -/

theorem witness_NopAndReservedChangeNothing :
    opcodeField 0x0FFFFFFF#32 = 0x0#4 ∧ 7 ≤ (opcodeField 0x70000000#32).toNat ∧ 7 ≤ (opcodeField 0xFFFFFFFF#32).toNat := by decide

theorem witness_WrpixWritesOneCell :
    blank.seq.phase = .idle ∧ ¬((3 : Fin 4).val = (3 : BitVec 2).toNat ∧ (62 : Fin 64).val = (63 : BitVec 6).toNat) := by decide

/-- The one hypothesis of ClrrowsClearsEveryCell, PackFillsThePlanes and RenderStartsItsSequence (with fresh = 0 here, and with
fresh = 1), and of the others about a ready block. -/
theorem witness_ready : blank.seq.phase = .idle ∧ { blank with fresh := true }.seq.phase = .idle := ⟨rfl, rfl⟩

/-- Words with the opcodes of the first clauses of the command statements, reserved bits set. -/
theorem witness_opcodes :
    opcodeField 0x1F3F01FF#32 = 0x1#4 ∧ opcodeField 0x2FFFFFFF#32 = 0x2#4 ∧ opcodeField 0x3FFFFFFF#32 = 0x3#4 ∧
      opcodeField 0x4FFFFFF5#32 = 0x4#4 ∧ opcodeField 0x5FFE000F#32 = 0x5#4 ∧ opcodeField 0x6FFFFFF9#32 = 0x6#4 := by decide

theorem witness_WrdirtyWritesOneQuarter :
    blank.seq.phase = .idle ∧ (16 * (3 : BitVec 2).toNat ≤ 63 ∧ 63 ≤ 16 * (3 : BitVec 2).toNat + 15) ∧
      ¬(16 * (3 : BitVec 2).toNat ≤ 47 ∧ 47 ≤ 16 * (3 : BitVec 2).toNat + 15) ∧
      (16 * (0 : BitVec 2).toNat ≤ 0 ∧ 0 ≤ 16 * (0 : BitVec 2).toNat + 15) ∧
      ¬(16 * (0 : BitVec 2).toNat ≤ 16 ∧ 16 ≤ 16 * (0 : BitVec 2).toNat + 15) := by decide

/-- A ready block whose rows 25 to 35 are dirty. -/
def dirtyState : State := { blank with dirty := rows25to35 }

/-- RENDERD's two cases: address 9 is dirty, address 4 is clean. -/
theorem witness_RenderdDrivesOnlyDirtyAddresses :
    dirtyState.seq.phase = .idle ∧
      (∃ h sub : Fin 2, dirtyState.dirty.getLsbD (Config.pixelMap.rowMap (9 : BitVec 4).toFin h sub).val = true) ∧
      (∀ h sub : Fin 2, dirtyState.dirty.getLsbD (Config.pixelMap.rowMap (4 : BitVec 4).toFin h sub).val = false) := by decide

/-- The hypotheses of SkippedRenderdKeepsFresh, and of the second clause of UndrivenAddressGetsNoLight. -/
theorem witness_SkippedRenderdKeepsFresh :
    dirtyState.seq.phase = .idle ∧
      ∀ h sub : Fin 2, dirtyState.dirty.getLsbD (Config.pixelMap.rowMap (8 : BitVec 4).toFin h sub).val = false := by decide

theorem witness_EachStoreHasItsOwnWriters :
    (after (.wrpix 0 0 1 0 0) blank).rib ≠ blank.rib ∧ (after .clrrows blank).ribWritten ≠ blank.ribWritten ∧
      (after .pack (after (.wrpix 0 0 1 0 0) blank)).ppb ≠ blank.ppb ∧ (after .pack blank).undef ≠ blank.undef ∧
      (after (.wrdirty 3 1) blank).dirty ≠ blank.dirty ∧ (after (.render 0) blank).stale ≠ blank.stale ∧
      (after (.render 0) blank).seq ≠ blank.seq ∧ (after .pack blank).fresh ≠ blank.fresh := by decide +kernel

/-- Every command has a next state: the hypothesis of EachStoreHasItsOwnWriters, OnlyRenderLeavesIdle and
WritesAndPackAreIdempotent. -/
theorem witness_exec_next (i : Instr) : exec i blank = .next (after i blank) := by
  cases i <;> rfl

theorem witness_OnlyRenderLeavesIdle :
    (after (.render 0) blank).seq.phase ≠ .idle ∧
      (after (.renderd 9) dirtyState).seq.phase ≠ .idle ∧
      (after (.renderd 4) dirtyState).seq.phase = .idle := by decide +kernel

theorem witness_RibIsReadOnlyByPack :
    (∀ w, acceptedWord (withPort [some 0x20000000#32] [] blank) = some w → decode w ≠ .pack) ∧
      (∀ w, acceptedWord (withPort [some 0x30000000#32] [] lastUnit) = some w → decode w ≠ .pack) := by
  refine ⟨fun w h => ?_, fun w h => ?_⟩
  · have e : some 0x20000000#32 = some w := h
    cases e
    decide
  · have e : (none : Option Word) = some w := h
    cases e

theorem witness_RecordsAreSticky :
    resetAsserted { blank with stale := true, undef := true } = false ∧
      step { blank with stale := true, undef := true } = .next { blank with stale := true, undef := true } ∧
      (after (.wrpix 3 63 0 0 0) blank).ribWritten[3][63] = true := ⟨rfl, rfl, by decide⟩

/-! ### Packing -/

/-- Two RIBs that agree in the pixels of chain column 0 only. -/
theorem witness_packColumn :
    ∀ (sub : Fin 2) (c : Fin 3),
      (channel (blank.rib[slotOf (halfOf 0) sub][PixelMap.default.colMap (halfOf 0) (posOf 0)]) c).getLsbD 2 =
        (channel ((setCell blank.rib 0 1 ⟨7, 7, 7⟩)[slotOf (halfOf 0) sub][PixelMap.default.colMap (halfOf 0) (posOf 0)])
          c).getLsbD 2 := by decide

theorem witness_PackColumnsAreIndependent :
    ((halfOf 127).val = (3 : Fin 4).val / 2 ∧ PixelMap.default.colMap (halfOf 127) (posOf 127) = 63) ∧
      ¬((halfOf 63).val = (3 : Fin 4).val / 2 ∧ PixelMap.default.colMap (halfOf 63) (posOf 63) = 63) := by decide

theorem witness_PackOfUniformRows :
    (∀ (k : Fin 4) (x : Fin 64), (Vector.replicate 4 (Vector.replicate 64 (⟨0, 0, 0⟩ : Pixel)) : Rib)[k][x] = ⟨0, 0, 0⟩) ∧
      (∀ (k : Fin 4) (x : Fin 64), (Vector.replicate 4 (Vector.replicate 64 (⟨7, 7, 7⟩ : Pixel)) : Rib)[k][x] = ⟨7, 7, 7⟩) :=
  ⟨fun _ _ => by simp, fun _ _ => by simp⟩

/-! ### The sequencer -/

theorem witness_SequencerFollowsItsTable :
    (inPhase .idle 0 0 0).seq.phase = .idle ∧ (inPhase .blankIn 0 0 0).seq.phase = .blankIn ∧
      (inPhase .setRow 0 0 0).seq.phase = .setRow ∧ (inPhase .shift 1 126 0).seq.col.toNat < 127 ∧
      (inPhase .shift 1 127 0).seq.col.toNat = 127 ∧ (inPhase .latch 2 0 0).seq.phase = .latch ∧
      (inPhase .on 2 0 0).seq.phase = .on ∧ 1 < (inPhase .expose 0 0 2).seq.timer ∧
      (inPhase .expose 0 0 1).seq.timer = 1 ∧ (inPhase .off 1 0 0).seq.plane.val < 2 ∧
      (inPhase .off 2 0 0).seq.plane.val = 2 := by decide

theorem witness_ActionsDriveThePins : Pins.reset.clk = false ∧ Pins.reset.lat = false := by decide

theorem witness_SequenceRunsToItsEnd :
    (inPhase .blankIn 0 0 0).seq.phase = .blankIn ∧ (inPhase .blankIn 0 0 0).seq.plane = 0 ∧
      (inPhase .blankIn 0 0 0).seq.col = 0 ∧ noResetFor (sequenceSteps Config.baseDelay) (inPhase .blankIn 0 0 0) :=
  ⟨rfl, rfl, rfl, fun _ _ => rfl⟩

theorem witness_seqInv_blankIn : seqInv Config.baseDelay (inPhase .blankIn 0 0 0) :=
  ⟨rfl, rfl, rfl, (fun h => nomatch h), rfl, fun _ => rfl, fun _ => rfl⟩

/-- A word held through the last delay unit of an exposure, and one held through a whole sequence. -/
theorem witness_HeldWordIsAcceptedInTime :
    (seqInv Config.baseDelay (withPort [some 0x30000000#32] [] lastUnit) ∧
      (withPort [some 0x30000000#32] [] lastUnit).port.words = some 0x30000000#32 :: [] ∧
      noResetFor (sequenceSteps Config.baseDelay + 1) (withPort [some 0x30000000#32] [] lastUnit)) ∧
    (seqInv Config.baseDelay (withPort [some 0x30000000#32] [] (inPhase .blankIn 0 0 0)) ∧
      (withPort [some 0x30000000#32] [] (inPhase .blankIn 0 0 0)).port.words = some 0x30000000#32 :: [] ∧
      noResetFor (sequenceSteps Config.baseDelay + 1) (withPort [some 0x30000000#32] [] (inPhase .blankIn 0 0 0))) :=
  ⟨⟨witness_seqInv_lastUnit, rfl, witness_noReset _ _ _⟩, ⟨witness_seqInv_blankIn, rfl, witness_noReset _ _ _⟩⟩

theorem witness_ActionLevelMeetsCommandLevel (i : Instr) (_h : i.wf = true) :
    (withPort [some (encode i)] [] blank).seq.phase = .idle ∧
      seqInv Config.baseDelay (withPort [some (encode i)] [] blank) ∧
      (withPort [some (encode i)] [] blank).port.words = some (encode i) :: [] ∧
      noResetFor (sequenceSteps Config.baseDelay + 1) (withPort [some (encode i)] [] blank) :=
  ⟨rfl, witness_seqInv_blank, rfl, witness_noReset _ _ _⟩

theorem witness_EveryStepKeepsTheRunInvariant :
    runInv afterPlane0 ∧ step afterPlane0 = .next (sequencerStep Config.baseDelay (passStep afterPlane0)) :=
  ⟨witness_runInv_afterPlane0, rfl⟩

/-- A SetRow, a Shift and a PulseLatch that each stand in the trace. -/
theorem witness_RowShiftAndLatchAreBlanked :
    runInv afterPlane0 ∧
      afterPlane0.trace = [.setOE false] ++ .setRow 7 :: afterPlane0.trace.drop 2 ∧ needsBlank (.setRow 7) = true ∧
      afterPlane0.trace = afterPlane0.trace.take 129 ++ .shift 0 :: afterPlane0.trace.drop 130 ∧
      needsBlank (.shift 0) = true ∧
      afterPlane0.trace = afterPlane0.trace.take 130 ++ .pulseLatch :: afterPlane0.trace.drop 131 ∧
      needsBlank .pulseLatch = true :=
  ⟨witness_runInv_afterPlane0, rfl, rfl, rfl, rfl, rfl, rfl⟩

theorem witness_LatchFollowsExactly128Shifts :
    runInv afterPlane0 ∧ afterPlane0.trace = afterPlane0.trace.take 130 ++ .pulseLatch :: afterPlane0.trace.drop 131 :=
  ⟨witness_runInv_afterPlane0, rfl⟩

/-- The Wait and the ending SetOE(0) stand while oe = 1, the SetOE(1) while oe = 0. -/
theorem witness_LitOnlyDuringExposures :
    runInv afterPlane0 ∧
      afterPlane0.trace =
        afterPlane0.trace.take 132 ++ .wait (exposureDuration Config.baseDelay 0) :: afterPlane0.trace.drop 133 ∧
      ((afterPlane0.trace.take 132).foldl pinsAfter Pins.reset).oe = true ∧
      afterPlane0.trace = afterPlane0.trace.take 133 ++ .setOE false :: [] ∧
      ((afterPlane0.trace.take 133).foldl pinsAfter Pins.reset).oe = true ∧
      afterPlane0.trace = afterPlane0.trace.take 131 ++ .setOE true :: afterPlane0.trace.drop 132 ∧
      ((afterPlane0.trace.take 131).foldl pinsAfter Pins.reset).oe = false :=
  ⟨witness_runInv_afterPlane0, rfl, rfl, rfl, rfl, rfl, rfl⟩

theorem witness_RenderTraceEndPins :
    resetAsserted blank = false ∧ blank.seq.phase = .idle ∧ step blank = .next blank := ⟨rfl, rfl, rfl⟩

theorem witness_ExposureIsExact : (inPhase .on 2 0 0).seq.phase = .on := rfl

theorem witness_MergedWaitsAreTheSameObservation : 1 ≤ 1 ∧ 1 ≤ Config.baseDelay := ⟨Nat.le_refl 1, Nat.le_add_left 1 _⟩

/-! ### The panel -/

theorem witness_RenderLightsInProportion : (4 : ScanAddr) ≠ 3 := by decide

/-- Reset taken in IDLE, in a sequence, and again on the step after while reset is held. -/
theorem witness_ObservationStartsAtReset :
    (resetAsserted (withPort [] [true] blank) = true ∧ blank.seq.phase = .idle ∧ blank.cutShort = false ∧
      step (withPort [] [true] blank) = .next (takeReset (withPort [] [true] blank))) ∧
    (resetAsserted (withPort [] [true, true] lastUnit) = true ∧ lastUnit.seq.phase ≠ .idle) ∧
    (resetAsserted (takeReset (withPort [] [true, true] lastUnit)) = true ∧
      (takeReset (withPort [] [true, true] lastUnit)).cutShort = true ∧
      (takeReset (withPort [] [true, true] lastUnit)).trace = []) ∧
    (resetAsserted { withPort [] [true] blank with cutShort := true, trace := [.setOE false] } = true ∧
      [PinAction.setOE false] ≠ []) :=
  ⟨⟨rfl, rfl, rfl, rfl⟩, ⟨rfl, fun h => nomatch h⟩, ⟨rfl, rfl, rfl⟩, ⟨rfl, fun h => nomatch h⟩⟩

theorem witness_StepExtendsTheObservation :
    resetAsserted lastUnit = false ∧ step lastUnit = .next (sequencerStep Config.baseDelay (passStep lastUnit)) :=
  ⟨rfl, rfl⟩

theorem witness_UndrivenAddressGetsNoLight :
    ∀ d ∈ [((3 : ScanAddr), blank.ppb), ((0 : ScanAddr), blank.ppb)], d.1 ≠ 4 := by
  intro d h
  rcases List.mem_cons.mp h with rfl | h
  · decide
  · rw [List.mem_singleton.mp h]
    decide

theorem witness_ScanShowsTheRows :
    assemble (.scan (5 : BitVec 4).toNat) = some [0x30000000#32, 0x40000005#32] ∧
      (withPort [some 0x30000000#32, some 0x40000005#32] [] blank).port.words =
        some 0x30000000#32 :: some 0x40000005#32 :: [] ∧
      (withPort [some 0x30000000#32, some 0x40000005#32] [] blank).seq.phase = .idle ∧
      seqInv Config.baseDelay (withPort [some 0x30000000#32, some 0x40000005#32] [] blank) ∧
      noResetFor (sequenceSteps Config.baseDelay + 2) (withPort [some 0x30000000#32, some 0x40000005#32] [] blank) ∧
      (6 : ScanAddr) ≠ 5 :=
  ⟨by decide, rfl, rfl, witness_seqInv_blank, witness_noReset _ _ _, by decide⟩

/-! ### Encoding and the assembler -/

theorem witness_DecodeEncodeRoundTrip :
    (Instr.wrpix 3 63 7 7 7).wf = true ∧ (Instr.reserved8f 0x8#4).wf = true ∧ (Instr.reserved8f 0xF#4).wf = true := by decide

theorem witness_ReservedBitsAreIgnored :
    opcodeField 0x0FFFFFFF#32 = 0x0#4 ∧ opcodeField 0x20000001#32 = 0x2#4 ∧ opcodeField 0x30000000#32 = 0x3#4 ∧
      opcodeField 0x1F3F01FF#32 = 0x1#4 ∧ opcodeField 0x4FFFFFF5#32 = 0x4#4 ∧ opcodeField 0x60000009#32 = 0x6#4 ∧
      opcodeField 0x5FFE000F#32 = 0x5#4 := by decide

/-- 64 pixels in range. -/
def whiteRow : List PixelOperand := List.replicate 64 ⟨7, 7, 7⟩

theorem witness_PseudoInstructionsDoTheirWork :
    (2 : Fin 4) ≠ 3 ∧ whiteRow.length = 64 ∧ (∀ p ∈ whiteRow, p.r ≤ 7 ∧ p.g ≤ 7 ∧ p.b ≤ 7) ∧
      whiteRow[0]? = some ⟨7, 7, 7⟩ ∧ whiteRow[63]? = some ⟨7, 7, 7⟩ := by decide

end Sys2Proof.Tests
end

section
/-! SUPPORT. The address mask bit by bit (42_matrix_driver.md R94), and what it decides of a RENDERD (R95). -/

namespace Sys2Proof.Machine

/-- Joining one flag per scan address into an accumulator: bit `a` of the result is the flag of `a` when `a` was visited. -/
theorem getLsbD_foldl_joinFlags (flag : Fin 16 → Bool) (visited : List (Fin 16)) (out : BitVec 16) (a : Fin 16) :
    (visited.foldl (fun out b => out ||| (BitVec.ofBool (flag b)).setWidth 16 <<< b.val) out).getLsbD a.val =
      (out.getLsbD a.val || (flag a && decide (a ∈ visited))) := by
  induction visited generalizing out with
  | nil => simp
  | cons b bs ih =>
    have hflag : ((BitVec.ofBool (flag b)).setWidth 16 <<< b.val).getLsbD a.val = (flag a && decide (a = b)) := by
      by_cases hab : a = b
      · subst hab
        simp
      · have hne : a.val ≠ b.val := Fin.val_ne_of_ne hab
        by_cases hlt : a.val < b.val
        · simp [hab, hlt]
        · have hpos : a.val - b.val ≠ 0 := by omega
          simp [hab, hpos]
    rw [List.foldl_cons, ih, BitVec.getLsbD_or, hflag, Bool.or_assoc, ← Bool.and_or_distrib_left]
    simp

/-- R94: bit `a` of the address mask says whether scan address `a` is dirty. -/
theorem addrMask_getLsbD (m : PixelMap) (d : BitVec 64) (a : Fin 16) :
    (addrMask m d).getLsbD a.val = addrDirty m d a := by
  have hjoin := getLsbD_foldl_joinFlags (addrDirty m d) (List.finRange 16) 0 a
  rw [addrMask, hjoin]
  simp

/-- With no row dirty, no scan address is. -/
theorem addrDirty_zero (m : PixelMap) (a : Fin 16) : addrDirty m 0 a = false := by
  simp [addrDirty]

/-- R95: the rule of RENDERD is the rule of RENDER when its address is dirty, else nothing. -/
theorem startIfDirty_eq (m : PixelMap) (a : ScanAddr) (s : State) :
    startIfDirty m a s = if addrDirty m s.dirty (addrIndex a) then startSequence a s else s := by
  rw [startIfDirty, addrMask_getLsbD]

end Sys2Proof.Machine
end

section
/-! The state that reset leaves (10_state.md R37 to R40): O1. -/

namespace Sys2Proof.Machine

/-- The word presented while ready = 1 is the one accepted (30_encoding.md R59). -/
theorem acceptedWord_presented (s : State) (w : Word) (ws : List (Option Word)) (hidle : s.seq.phase = .idle)
    (hport : s.port.words = some w :: ws) : acceptedWord s = some w := by
  have hready : s.ready = true := (ready_iff s).2 hidle
  simp [acceptedWord, hready, hport]

/-- No RIB cell counts as written after reset (10_state.md R39). -/
theorem reset_ribWritten (k : Fin 4) (x : Fin 64) : State.reset.ribWritten[k][x] = false := by
  simp [State.reset, State.resetAt]

/-- A RENDERD before any WRDIRTY changes nothing: DIRTY = 0, so every address is clean (10_state.md R37). -/
theorem exec_renderd_reset (a : BitVec 4) : exec (.renderd a) State.reset = .next State.reset := by
  have hclean : addrDirty Config.pixelMap State.reset.dirty (addrIndex a) = false := addrDirty_zero _ _
  rw [exec_renderd, accept_idle _ _ rfl, startIfDirty_eq, hclean, if_neg Bool.false_ne_true]

/-- Settles O1: the stored values are those of `State.resetAt`; the block is ready, so a presented word is accepted; no row
is dirty, so no RENDERD starts a sequence. -/
theorem resetLeavesTheStatedValues : Obligations.ResetLeavesTheStatedValues :=
  ⟨rfl, rfl, rfl, rfl, rfl, rfl, reset_ribWritten, rfl, rfl,
    fun w ws _ => acceptedWord_presented _ w ws rfl rfl, exec_renderd_reset⟩

end Sys2Proof.Machine
end

section
/-! SUPPORT. What each word with a buffer command's opcode or a reserved opcode decodes to, whatever its other bits
(30_encoding.md R61, R64, R65). -/

namespace Sys2Proof

theorem decode_opcode_nop (w : Word) (hop : opcodeField w = 0x0#4) : decode w = .nop := by
  simp [decode, hop]

theorem decode_opcode_wrpix (w : Word) (hop : opcodeField w = 0x1#4) :
    decode w =
      .wrpix (w.extractLsb' 24 2) (w.extractLsb' 16 6) (w.extractLsb' 0 3) (w.extractLsb' 3 3) (w.extractLsb' 6 3) := by
  simp [decode, hop]

theorem decode_opcode_clrrows (w : Word) (hop : opcodeField w = 0x2#4) : decode w = .clrrows := by
  simp [decode, hop]

theorem decode_opcode_wrdirty (w : Word) (hop : opcodeField w = 0x5#4) :
    decode w = .wrdirty (w.extractLsb' 16 2) (w.extractLsb' 0 16) := by
  simp [decode, hop]

/-- Decoding keeps the opcode: the command a word decodes to has the word's opcode field. -/
theorem opcode_decode (w : Word) : (decode w).opcode = opcodeField w := by
  unfold decode
  split <;> simp [Instr.opcode, *]

/-- Only the two reserved constructors have an opcode from 0x7 up. -/
theorem decode_opcode_reserved (w : Word) (hop : 7 ≤ (opcodeField w).toNat) :
    decode w = .reserved7 ∨ ∃ op, decode w = .reserved8f op := by
  rw [← opcode_decode] at hop
  cases hdec : decode w with
  | reserved7 => exact .inl rfl
  | reserved8f op => exact .inr ⟨op, rfl⟩
  | nop | wrpix _ _ _ _ _ | clrrows | pack | render _ | wrdirty _ _ | renderd _ => simp [hdec, Instr.opcode] at hop

end Sys2Proof
end

section
/-! The buffer commands and the reserved opcodes (40_buffer_commands.md R70 to R73, 30_encoding.md R65): O9, O10, O11, O8. -/

namespace Sys2Proof.Machine

/-! ### WRPIX and CLRROWS -/

/-- A cell named by its two coordinates as numbers is not the cell the operands of a WRPIX select. -/
theorem not_selected_cell (slot : BitVec 2) (col : BitVec 6) (k : Fin 4) (x : Fin 64)
    (hother : ¬(k.val = slot.toNat ∧ x.val = col.toNat)) : ¬(k = slotIndex slot ∧ x = colIndex col) :=
  fun ⟨hk, hx⟩ => hother ⟨congrArg Fin.val hk, congrArg Fin.val hx⟩

/-- A cell write touches RIB and the written bits only. -/
theorem writeCell_frame (k : Fin 4) (x : Fin 64) (v : Pixel) (s : State) :
    writeCell k x v s = { s with rib := (writeCell k x v s).rib, ribWritten := (writeCell k x v s).ribWritten } := rfl

/-- Settles O9: in IDLE the rule of WRPIX runs, which is one `setCell` on RIB and one on the written bits. -/
theorem wrpixWritesOneCell : Obligations.WrpixWritesOneCell := by
  refine ⟨decode_opcode_wrpix, fun slot col r g b s hidle =>
    ⟨writeCell (slotIndex slot) (colIndex col) ⟨r, g, b⟩ s, ?_, ?_, ?_, ?_, writeCell_frame _ _ _ s⟩⟩
  · rw [exec_wrpix, accept_idle _ s hidle]
  · exact setCell_same s.rib (slotIndex slot) (colIndex col) ⟨r, g, b⟩
  · exact setCell_same s.ribWritten (slotIndex slot) (colIndex col) true
  · intro k x hother
    have hne := not_selected_cell slot col k x hother
    exact ⟨setCell_other s.rib _ k _ x _ hne, setCell_other s.ribWritten _ k _ x _ hne⟩

/-- Clearing touches RIB and the written bits only. -/
theorem clearCells_frame (s : State) :
    clearCells s = { s with rib := (clearCells s).rib, ribWritten := (clearCells s).ribWritten } := rfl

/-- Settles O10: in IDLE the rule of CLRROWS runs, which replaces both stores by constant ones. -/
theorem clrrowsClearsEveryCell : Obligations.ClrrowsClearsEveryCell := by
  refine ⟨decode_opcode_clrrows, fun s hidle => ⟨clearCells s, ?_, fun k x => ⟨?_, ?_⟩, clearCells_frame s⟩⟩
  · rw [exec_clrrows, accept_idle _ s hidle]
  · simp
  · simp

/-! ### WRDIRTY -/

/-- `setQuarter_bit` with the quarter given by its bounds, `16*q` to `16*q + 15` (40_buffer_commands.md R73). -/
theorem setQuarter_bit_of_bounds (d : BitVec 64) (q : BitVec 2) (value : BitVec 16) (i : Nat) (hi : i < 64) :
    (setQuarter d q value).getLsbD i =
      if 16 * q.toNat ≤ i ∧ i ≤ 16 * q.toNat + 15 then value.getLsbD (i - 16 * q.toNat) else d.getLsbD i := by
  rw [setQuarter_bit d q value i hi]
  by_cases hin : 16 * q.toNat ≤ i ∧ i ≤ 16 * q.toNat + 15
  · have hquarter : i / 16 = q.toNat := by omega
    have hoffset : i % 16 = i - 16 * q.toNat := by omega
    rw [if_pos hquarter, if_pos hin, hoffset]
  · have hquarter : i / 16 ≠ q.toNat := by omega
    rw [if_neg hquarter, if_neg hin]

/-- A quarter write touches DIRTY only. -/
theorem writeQuarter_frame (q : BitVec 2) (value : BitVec 16) (s : State) :
    writeQuarter q value s = { s with dirty := (writeQuarter q value s).dirty } := rfl

/-- Settles O11: in IDLE the rule of WRDIRTY runs, which is one `setQuarter` on DIRTY. -/
theorem wrdirtyWritesOneQuarter : Obligations.WrdirtyWritesOneQuarter := by
  refine ⟨decode_opcode_wrdirty, fun q value s hidle =>
    ⟨writeQuarter q value s, ?_, setQuarter_bit_of_bounds s.dirty q value, writeQuarter_frame q value s⟩⟩
  rw [exec_wrdirty, accept_idle _ s hidle]

/-! ### NOP and the reserved opcodes -/

/-- Accepting the rule `skip` leaves the state as it is, in IDLE and outside it. -/
theorem accept_id (s : State) : accept id s = .next s := by
  by_cases hidle : s.seq.phase = .idle
  · exact accept_idle id s hidle
  · exact accept_busy id s hidle

/-- Settles O8: NOP and both reserved commands are the acceptance of `skip`, and every word with their opcodes decodes to one
of the three. -/
theorem nopAndReservedChangeNothing : Obligations.NopAndReservedChangeNothing := by
  intro s
  have hnop : exec .nop s = .next s := by rw [exec_nop, accept_id]
  have hreserved7 : exec .reserved7 s = .next s := by rw [exec_reserved7, accept_id]
  have hreserved8f : ∀ op, exec (.reserved8f op) s = .next s := fun op => by rw [exec_reserved8f, accept_id]
  refine ⟨hnop, hreserved7, hreserved8f, fun w hop => ?_⟩
  obtain hzero | hhigh := hop
  · rw [decode_opcode_nop w hzero, hnop]
  · obtain hdec | ⟨op, hdec⟩ := decode_opcode_reserved w hhigh
    · rw [hdec, hreserved7]
    · rw [hdec, hreserved8f]

end Sys2Proof.Machine
end

section
/-! SUPPORT. The packing function and its inverse read bit by bit, through the coordinates (plane, half, position, sub-row,
channel) that one bit of the planes and one bit of RIB share (41_packer.md R76 to R78, R82). -/

namespace Sys2Proof.Machine

/-! ### Coordinates -/

@[simp] theorem halfOf_chainCol (h : Fin 2) (x : Fin 64) : halfOf (chainCol h x) = h := by
  apply Fin.ext
  simp only [halfOf, chainCol]
  omega

@[simp] theorem posOf_chainCol (h : Fin 2) (x : Fin 64) : posOf (chainCol h x) = x := by
  apply Fin.ext
  simp only [posOf, chainCol]
  omega

@[simp] theorem chainCol_halfOf_posOf (j : Fin 128) : chainCol (halfOf j) (posOf j) = j := by
  apply Fin.ext
  simp only [chainCol, halfOf, posOf]
  omega

/-- The half of a slot `2*h + s`. -/
theorem slotOf_div_two (h sub : Fin 2) : (slotOf h sub).val / 2 = h.val := by
  simp only [slotOf]
  omega

/-- The sub-row of a slot `2*h + s`. -/
theorem slotOf_mod_two (h sub : Fin 2) : (slotOf h sub).val % 2 = sub.val := by
  simp only [slotOf]
  omega

/-- Every RIB slot belongs to a half and a sub-row (10_state.md R23). -/
theorem exists_slotOf (k : Fin 4) : ∃ h sub : Fin 2, slotOf h sub = k :=
  ⟨⟨k.val / 2, by omega⟩, ⟨k.val % 2, by omega⟩, Fin.ext (by simp only [slotOf]; omega)⟩

/-- Every one of the low six bits of a packed byte belongs to a sub-row and a channel (41_packer.md R77). -/
theorem exists_bit_position (i : Nat) (hi : i < 6) : ∃ (sub : Fin 2) (c : Fin 3), 3 * sub.val + c.val = i :=
  ⟨⟨i / 3, by omega⟩, ⟨i % 3, by omega⟩, by simp only; omega⟩

/-! ### Equality from the bits -/

/-- A byte is given by its six channel bits and its two top bits. -/
theorem byte_eq_of_bits (a b : Byte)
    (hlow : ∀ (sub : Fin 2) (c : Fin 3), a.getLsbD (3 * sub.val + c.val) = b.getLsbD (3 * sub.val + c.val))
    (hsix : a.getLsbD 6 = b.getLsbD 6) (hseven : a.getLsbD 7 = b.getLsbD 7) : a = b := by
  apply BitVec.eq_of_getLsbD_eq
  intro i hi
  obtain hlt | rfl | rfl : i < 6 ∨ i = 6 ∨ i = 7 := by omega
  · obtain ⟨sub, c, rfl⟩ := exists_bit_position i hlt
    exact hlow sub c
  · exact hsix
  · exact hseven

/-- A pixel is given by the three bits of its three channels. -/
theorem pixel_eq_of_bits (u v : Pixel)
    (hbits : ∀ c p : Fin 3, (channel u c).getLsbD p.val = (channel v c).getLsbD p.val) : u = v := by
  have hchannel : ∀ c, channel u c = channel v c := fun c =>
    BitVec.eq_of_getLsbD_eq fun i hi => hbits c ⟨i, hi⟩
  obtain ⟨ur, ug, ub⟩ := u
  obtain ⟨vr, vg, vb⟩ := v
  exact (Pixel.mk.injEq ..).mpr ⟨hchannel 0, hchannel 1, hchannel 2⟩

/-- A channel intensity is the binary sum of its three bits. -/
theorem intensity_toNat (v : BitVec 3) :
    v.toNat = (v.getLsbD 0).toNat + (v.getLsbD 1).toNat * 2 + (v.getLsbD 2).toNat * 4 := by
  revert v
  decide

/-! ### Packing -/

/-- R78: bit `3*s + c` of a byte of the planes is bit `p` of channel `c` of the pixel its column shows in sub-row `s`. -/
theorem packRows_bit (m : PixelMap) (R : Rib) (p : Fin 3) (j : Fin 128) (sub : Fin 2) (c : Fin 3) :
    ((packRows m R)[p][j]).getLsbD (3 * sub.val + c.val) = (channel (ribPixel m R j sub) c).getLsbD p.val := by
  rw [packRows_byte]
  exact packByte_bit (ribPixel m R j) p sub c

/-- R76: bits 7:6 of a byte of the planes are 0. -/
theorem packRows_top (m : PixelMap) (R : Rib) (p : Fin 3) (j : Fin 128) :
    ((packRows m R)[p][j]).getLsbD 6 = false ∧ ((packRows m R)[p][j]).getLsbD 7 = false := by
  rw [packRows_byte]
  exact packByte_top _ _ p

/-- The pixel that the column at position `x` of half `h` shows. -/
theorem ribPixel_chainCol (m : PixelMap) (R : Rib) (h : Fin 2) (x : Fin 64) (sub : Fin 2) :
    ribPixel m R (chainCol h x) sub = R[slotOf h sub][m.colMap h x] := by
  simp only [ribPixel, halfOf_chainCol, posOf_chainCol]

/-- A column that does not read the written cell shows the pixels it showed before. -/
theorem ribPixel_setCell_other (m : PixelMap) (R : Rib) (k : Fin 4) (y : Fin 64) (v : Pixel) (j : Fin 128)
    (hunread : ¬((halfOf j).val = k.val / 2 ∧ m.colMap (halfOf j) (posOf j) = y)) (sub : Fin 2) :
    ribPixel m (setCell R k y v) j sub = ribPixel m R j sub := by
  apply setCell_other
  rintro ⟨rfl, hcol⟩
  exact hunread ⟨(slotOf_div_two (halfOf j) sub).symm, hcol⟩

/-- Rows of one pixel everywhere pack to one byte per plane. -/
theorem packRows_uniform (m : PixelMap) (R : Rib) (v : Pixel) (huniform : ∀ (k : Fin 4) (x : Fin 64), R[k][x] = v)
    (p : Fin 3) (j : Fin 128) : (packRows m R)[p][j] = packByte v v p := by
  have hshown : ∀ sub, ribPixel m R j sub = v := fun sub => huniform _ _
  rw [packRows_byte, hshown, hshown]

/-! ### Unpacking -/

/-- `colPos` finds the position that a column permutation sends to a column (41_packer.md R82). -/
theorem colPos_colMap (m : PixelMap) (h : Fin 2) (hinj : Function.Injective (m.colMap h)) (x : Fin 64) :
    colPos m h (m.colMap h x) = x := by
  have hsome : ((List.finRange 64).find? fun x' => decide (m.colMap h x' = m.colMap h x)).isSome :=
    List.find?_isSome.mpr ⟨x, List.mem_finRange x, decide_eq_true rfl⟩
  obtain ⟨x', hfind⟩ := Option.isSome_iff_exists.mp hsome
  have hmap : m.colMap h x' = m.colMap h x := by simpa using List.find?_some hfind
  rw [colPos, hfind, Option.getD_some, hinj hmap]

/-- Bit `p` of an unpacked channel is the channel's bit of plane `p`. -/
theorem unpackChannel_bit (P : Ppb) (j : Fin 128) (sub : Fin 2) (c p : Fin 3) :
    (unpackChannel P j sub c).getLsbD p.val = (P[p][j]).getLsbD (3 * sub.val + c.val) := by
  fin_cases p <;> simp [unpackChannel]

/-- The channel that unpacking puts in the cell of slot `2*h + s`, column `y`. -/
theorem channel_unpackRows (m : PixelMap) (P : Ppb) (h sub : Fin 2) (y : Fin 64) (c : Fin 3) :
    channel ((unpackRows m P)[slotOf h sub][y]) c = unpackChannel P (chainCol h (colPos m h y)) sub c := by
  have hcell : (unpackRows m P)[slotOf h sub][y] =
      ⟨unpackChannel P (chainCol h (colPos m h y)) sub 0, unpackChannel P (chainCol h (colPos m h y)) sub 1,
        unpackChannel P (chainCol h (colPos m h y)) sub 2⟩ := by
    simp [unpackRows, slotOf_div_two, slotOf_mod_two]
  rw [hcell]
  fin_cases c <;> rfl

/-- R82: for a column permutation, bit `p` of channel `c` of the unpacked cell of slot `2*h + s`, column `colMap(h, x)`, is bit
`3*s + c` of the byte of plane `p` at column `64*h + x`. -/
theorem unpackRows_bit (m : PixelMap) (P : Ppb) (h sub : Fin 2) (hinj : Function.Injective (m.colMap h)) (x : Fin 64)
    (c p : Fin 3) :
    (channel ((unpackRows m P)[slotOf h sub][m.colMap h x]) c).getLsbD p.val =
      (P[p][chainCol h x]).getLsbD (3 * sub.val + c.val) := by
  rw [channel_unpackRows, colPos_colMap m h hinj, unpackChannel_bit]

end Sys2Proof.Machine
end

section
/-! The packer (41_packer.md R78 to R83): O12, O22, O23, O24. -/

namespace Sys2Proof.Machine

/-! ### PACK -/

theorem decode_opcode_pack (w : Word) (hop : opcodeField w = 0x3#4) : decode w = .pack := by
  simp [decode, hop]

/-- Some cell is unwritten (60_exceptions.md R109). -/
theorem someUnwritten_iff (w : Grid Bool 4 64) :
    someUnwritten w = true ↔ ∃ (k : Fin 4) (x : Fin 64), w[k][x] = false :=
  decide_eq_true_iff

/-- PACK touches PPB, fresh and undef only. -/
theorem packBuffer_frame (m : PixelMap) (s : State) :
    packBuffer m s =
      { s with ppb := (packBuffer m s).ppb, fresh := (packBuffer m s).fresh, undef := (packBuffer m s).undef } := rfl

/-- Settles O12: in IDLE the rule of PACK runs, which puts `packRows` of RIB in PPB. -/
theorem packFillsThePlanes : Obligations.PackFillsThePlanes := by
  refine ⟨decode_opcode_pack, fun s hidle =>
    ⟨packBuffer Config.pixelMap s, ?_, packRows_bit Config.pixelMap s.rib, packRows_top Config.pixelMap s.rib, rfl, ?_,
      packBuffer_frame Config.pixelMap s⟩⟩
  · rw [exec_pack, accept_idle _ s hidle]
  · rw [packBuffer_undef, Bool.or_eq_true, someUnwritten_iff]

/-! ### The packing function -/

/-- R81: under column permutations two chain columns that read the same RIB cell are one. -/
theorem chain_column_unique (m : PixelMap) (hinj : ∀ h, Function.Injective (m.colMap h)) (j j' : Fin 128)
    (hhalf : halfOf j = halfOf j') (hcol : m.colMap (halfOf j) (posOf j) = m.colMap (halfOf j') (posOf j')) :
    j = j' := by
  rw [hhalf] at hcol
  rw [← chainCol_halfOf_posOf j, ← chainCol_halfOf_posOf j', hhalf, hinj _ hcol]

/-- Settles O22: a byte is given by the bits `packRows_bit` names, which come from the two pixels its column shows. -/
theorem packColumnsAreIndependent : Obligations.PackColumnsAreIndependent := by
  refine ⟨fun m R R' p j hagree => ?_, fun m R k y v => ⟨fun p j hunread => ?_, fun hlegal j j' hj hj' => ?_⟩⟩
  · obtain ⟨hsix, hseven⟩ := packRows_top m R p j
    obtain ⟨hsix', hseven'⟩ := packRows_top m R' p j
    refine byte_eq_of_bits _ _ (fun sub c => ?_) (hsix.trans hsix'.symm) (hseven.trans hseven'.symm)
    rw [packRows_bit, packRows_bit]
    exact hagree sub c
  · have hshown := ribPixel_setCell_other m R k y v j hunread
    rw [packRows_byte, packRows_byte, hshown, hshown]
  · obtain ⟨-, hbij⟩ := hlegal
    obtain ⟨hhalf, hcol⟩ := hj
    obtain ⟨hhalf', hcol'⟩ := hj'
    exact chain_column_unique m (fun h => (hbij h).injective) j j' (Fin.ext (hhalf.trans hhalf'.symm))
      (hcol.trans hcol'.symm)

/-- R82: unpacking recovers the rows that were packed. -/
theorem unpackRows_packRows (m : PixelMap) (hbij : ∀ h, Function.Bijective (m.colMap h)) (R : Rib) :
    unpackRows m (packRows m R) = R := by
  have hcell : ∀ (k : Fin 4) (y : Fin 64), (unpackRows m (packRows m R))[k][y] = R[k][y] := by
    intro k y
    obtain ⟨h, sub, rfl⟩ := exists_slotOf k
    obtain ⟨x, rfl⟩ := (hbij h).surjective y
    refine pixel_eq_of_bits _ _ fun c p => ?_
    rw [unpackRows_bit m _ h sub (hbij h).injective, packRows_bit, ribPixel_chainCol]
  exact Vector.ext fun k hk => Vector.ext fun y hy => hcell ⟨k, hk⟩ ⟨y, hy⟩

/-- R82: packing recovers the low six bits of the planes that were unpacked. -/
theorem packRows_unpackRows_low (m : PixelMap) (hinj : ∀ h, Function.Injective (m.colMap h)) (P : Ppb) (p : Fin 3)
    (j : Fin 128) : ((packRows m (unpackRows m P))[p][j]).extractLsb' 0 6 = (P[p][j]).extractLsb' 0 6 := by
  apply BitVec.eq_of_getLsbD_eq
  intro i hi
  obtain ⟨sub, c, rfl⟩ := exists_bit_position i hi
  have hbit : ((packRows m (unpackRows m P))[p][j]).getLsbD (3 * sub.val + c.val) =
      (P[p][j]).getLsbD (3 * sub.val + c.val) := by
    rw [packRows_bit, ribPixel, unpackRows_bit m P _ sub (hinj _)]
    simp only [chainCol_halfOf_posOf]
  rw [BitVec.getLsbD_extractLsb', BitVec.getLsbD_extractLsb', Nat.zero_add, hbit]

/-- Settles O23: packing and unpacking move each bit between the same two places (`packRows_bit`, `unpackRows_bit`). -/
theorem unpackInvertsPack : Obligations.UnpackInvertsPack := by
  intro m hlegal
  obtain ⟨-, hbij⟩ := hlegal
  have hinj := fun h => (hbij h).injective
  refine ⟨unpackRows_packRows m hbij, packRows_unpackRows_low m hinj, fun P h sub x c => ?_⟩
  have hbit := unpackRows_bit m P h sub (hinj h) x c
  rw [intensity_toNat, ← hbit 0, ← hbit 1, ← hbit 2]
  rfl

/-- Settles O24: both rows are uniform, so one byte per plane is left to evaluate (`packRows_uniform`). -/
theorem packOfUniformRows : Obligations.PackOfUniformRows := by
  intro m R p j
  have hzero : ∀ p, packByte ⟨0, 0, 0⟩ ⟨0, 0, 0⟩ p = 0x00#8 := by decide
  have hseven : ∀ p, packByte ⟨7, 7, 7⟩ ⟨7, 7, 7⟩ p = 0x3F#8 := by decide
  exact ⟨fun huniform => (packRows_uniform m R _ huniform p j).trans (hzero p),
    fun huniform => (packRows_uniform m R _ huniform p j).trans (hseven p)⟩

end Sys2Proof.Machine
end

section
/-! SUPPORT. The panel and the pins over one RENDER sequence (42_matrix_driver.md R91, R92, R103): what 128 Shifts leave in SR,
what one plane adds to the exposure account, what the three planes add together. -/

namespace Sys2Proof.Machine

/-! ### One plane of a sequence -/

/-- The actions of one plane: its Shifts, its latch and its exposure (42_matrix_driver.md R92). -/
def planeTrace (B : Nat) (P : Ppb) (p : Fin 3) : List PinAction :=
  planeShifts P p ++ [.pulseLatch, .setOE true, .wait (exposureDuration B p), .setOE false]

/-- R92: a RENDER sequence blanks, drives the row and then runs through the three planes in order. -/
theorem renderTrace_eq (B : Nat) (a : ScanAddr) (P : Ppb) :
    renderTrace B a P =
      .setOE false :: .setRow a :: (planeTrace B P 0 ++ (planeTrace B P 1 ++ planeTrace B P 2)) := by
  rw [renderTrace, flatMap_planes]
  rfl

/-! ### The pins -/

/-- Shifts move only the data and clock lines: the last word stays on the data lines, the clock rests low. -/
theorem pinsAfter_shifts (ws : List DataWord) (d : DataWord) (q : Pins) :
    ((ws ++ [d]).map PinAction.shift).foldl pinsAfter q = { q with data := d, clk := false } := by
  induction ws generalizing q with
  | nil => rfl
  | cons w ws ih => exact ih _

/-- The pins after the Shifts of one plane. -/
theorem pinsAfter_planeShifts (P : Ppb) (p : Fin 3) (q : Pins) :
    (planeShifts P p).foldl pinsAfter q = { q with data := ppbData P p 127, clk := false } := by
  have hlast : planeShifts P p =
      ((List.finRange 127).map (fun j => ppbData P p j.castSucc) ++ [ppbData P p 127]).map PinAction.shift := by
    rw [planeShifts, finRange_columns]
    simp [Function.comp_def]
  rw [hlast, pinsAfter_shifts]

/-- R98: the pins after one plane of a sequence. -/
theorem pinsAfter_planeTrace (B : Nat) (P : Ppb) (p : Fin 3) (q : Pins) :
    (planeTrace B P p).foldl pinsAfter q =
      { row := q.row, data := ppbData P p 127, clk := false, lat := false, oe := false } := by
  rw [planeTrace, List.foldl_append, pinsAfter_planeShifts]
  rfl

/-! ### The shift list -/

/-- While at most 128 words were shifted, they stand at the end of SR in order, whatever SR held. -/
theorem foldl_shiftIn_suffix (ws l before : List DataWord) (hlen : l.length + ws.length ≤ 128) :
    ∃ before', ws.foldl shiftIn (before ++ l) = before' ++ (l ++ ws) := by
  induction ws generalizing l before with
  | nil => exact ⟨before, by simp⟩
  | cons d ws ih =>
    rw [List.length_cons] at hlen
    obtain ⟨before₁, hshift⟩ := shiftIn_suffix before l d (by omega)
    obtain ⟨before₂, hrest⟩ := ih (l ++ [d]) before₁ (by rw [List.length_append, List.length_singleton]; omega)
    exact ⟨before₂, by rw [List.foldl_cons, hshift, hrest, List.append_assoc, List.singleton_append]⟩

/-- R103: 128 Shifts flush SR, so it holds exactly their words, whatever it held. -/
theorem foldl_shiftIn_flush (ws sr : List DataWord) (hlen : ws.length = 128) : ws.foldl shiftIn sr = ws := by
  obtain ⟨before, hsuffix⟩ := foldl_shiftIn_suffix ws [] sr (by simp [hlen])
  rw [List.append_nil, List.nil_append] at hsuffix
  have hbound : (ws.foldl shiftIn sr).length ≤ 128 := by
    obtain rfl | ⟨ws', d, rfl⟩ := List.eq_nil_or_concat ws
    · simp at hlen
    · rw [List.concat_eq_append, List.foldl_append]
      exact shiftIn_length_le _ d
  have hbefore : before = [] := by
    rw [hsuffix, List.length_append] at hbound
    exact List.eq_nil_of_length_eq_zero (by omega)
  rw [hsuffix, hbefore, List.nil_append]

/-- Shifts change nothing of the panel but SR. -/
theorem observe_shifts_panel (ws : List DataWord) (o : Pins × Panel) :
    (observe o (ws.map PinAction.shift)).2 = { o.2 with sr := ws.foldl shiftIn o.2.sr } := by
  induction ws generalizing o with
  | nil => rfl
  | cons w ws ih => exact ih _

/-- The words of one plane, oldest first. -/
def planeWords (P : Ppb) (p : Fin 3) : List DataWord := (List.finRange 128).map fun j => ppbData P p j

theorem planeWords_length (P : Ppb) (p : Fin 3) : (planeWords P p).length = 128 := by simp [planeWords]

theorem planeWords_getD (P : Ppb) (p : Fin 3) (j : Fin 128) : (planeWords P p).getD j.val 0 = ppbData P p j := by
  simp [planeWords]

theorem planeShifts_eq_map (P : Ppb) (p : Fin 3) : planeShifts P p = (planeWords P p).map PinAction.shift := by
  simp [planeShifts, planeWords]

/-- The panel after the Shifts of one plane: SR holds the plane, the rest is unchanged. -/
theorem observe_planeShifts_panel (P : Ppb) (p : Fin 3) (o : Pins × Panel) :
    (observe o (planeShifts P p)).2 = { o.2 with sr := planeWords P p } := by
  rw [planeShifts_eq_map, observe_shifts_panel, foldl_shiftIn_flush _ _ (planeWords_length P p)]

/-! ### The exposure account -/

/-- A latched plane lights what its bytes say: bit `3*s + c` of column `j` (42_matrix_driver.md R103). -/
theorem latchedBit_plane (P : Ppb) (p : Fin 3) (j : Fin 128) (sub : Fin 2) (c : Fin 3) :
    latchedBit (Vector.ofFn fun j => ppbData P p j) j sub c = ((P[p][j]).getLsbD (3 * sub.val + c.val)).toNat := by
  have hlow : 3 * sub.val + c.val < 6 := by omega
  simp [latchedBit, ppbData, hlow]

/-- R103: latching a full SR, then lighting the panel for `n` delay units, adds them to the account of the driven row's lit
channels, and to no other entry. -/
theorem observe_exposure_of_full (o : Pins × Panel) (n : Nat) (hfull : o.2.sr.length = 128) (b : ScanAddr) (j : Fin 128)
    (sub : Fin 2) (c : Fin 3) :
    (observe o [.pulseLatch, .setOE true, .wait n, .setOE false]).2.exposure b j sub c =
      o.2.exposure b j sub c +
        if b = o.1.row then n * latchedBit (Vector.ofFn fun j => o.2.sr.getD j.val 0) j sub c else 0 := by
  simp only [observe, List.foldl_cons, List.foldl_nil, observeAction, panelAfter, pinsAfter, if_true, hfull]
  split <;> rfl

/-- What one plane adds to the account: its exposure, in the lit channels of the driven row. -/
theorem observe_planeTrace_exposure (B : Nat) (P : Ppb) (p : Fin 3) (o : Pins × Panel) (b : ScanAddr) (j : Fin 128)
    (sub : Fin 2) (c : Fin 3) :
    (observe o (planeTrace B P p)).2.exposure b j sub c =
      o.2.exposure b j sub c +
        if b = o.1.row then B * 2 ^ p.val * ((P[p][j]).getLsbD (3 * sub.val + c.val)).toNat else 0 := by
  have hpanel := observe_planeShifts_panel P p o
  have hrow : (observe o (planeShifts P p)).1.row = o.1.row := by rw [observe_pins, pinsAfter_planeShifts]
  rw [planeTrace, observe_append, observe_exposure_of_full _ _ (by rw [hpanel]; exact planeWords_length P p), hrow, hpanel]
  simp only [planeWords_getD, latchedBit_plane, exposureDuration]

/-- R104: what a RENDER sequence adds to the account, whatever the pins and the panel were: at its own address BASE_DELAY
times the channel value that the planes hold, elsewhere nothing. -/
theorem observe_renderTrace_exposure (B : Nat) (a : ScanAddr) (P : Ppb) (o : Pins × Panel) (b : ScanAddr) (j : Fin 128)
    (sub : Fin 2) (c : Fin 3) :
    (observe o (renderTrace B a P)).2.exposure b j sub c =
      o.2.exposure b j sub c + if b = a then B * (unpackChannel P j sub c).toNat else 0 := by
  have hbit := unpackChannel_bit P j sub c
  rw [renderTrace_eq, observe_cons, observe_cons, observe_append, observe_append]
  simp only [observe_planeTrace_exposure, observe_pins, pinsAfter_planeTrace, ← hbit]
  have hstart : (observeAction (observeAction o (.setOE false)) (.setRow a)).1.row = a := rfl
  have hpanel : (observeAction (observeAction o (.setOE false)) (.setRow a)).2 = o.2 := rfl
  rw [hstart, hpanel]
  by_cases hb : b = a
  · simp only [if_pos hb, intensity_toNat, Fin.val_zero, Fin.val_one, Fin.val_two]
    ring
  · simp only [if_neg hb, Nat.add_zero]

end Sys2Proof.Machine
end

section
/-! SUPPORT. RENDERD at acceptance (42_matrix_driver.md R94, R95), the outputs, which no acceptance touches (R93), and two rows
of the sequencer's table (R96). -/

namespace Sys2Proof.Machine

theorem decode_opcode_renderd (w : Word) (hop : opcodeField w = 0x6#4) : decode w = .renderd (w.extractLsb' 0 4) := by
  simp [decode, hop]

/-- R94: a scan address is dirty when one of its four rows is. -/
theorem addrDirty_iff (m : PixelMap) (d : BitVec 64) (a : Fin 16) :
    addrDirty m d a = true ↔ ∃ h sub : Fin 2, d.getLsbD (m.rowMap a h sub).val = true := by
  simp only [addrDirty, Bool.or_eq_true, Fin.exists_fin_two, or_assoc]

/-- R94: a scan address is clean when all four of its rows are. -/
theorem addrDirty_eq_false_iff (m : PixelMap) (d : BitVec 64) (a : Fin 16) :
    addrDirty m d a = false ↔ ∀ h sub : Fin 2, d.getLsbD (m.rowMap a h sub).val = false := by
  simp only [addrDirty, Bool.or_eq_false_iff, Fin.forall_fin_two, and_assoc]

/-- R95: on a dirty address RENDERD is RENDER. -/
theorem startIfDirty_dirty (m : PixelMap) (a : ScanAddr) (s : State) (hdirty : addrDirty m s.dirty (addrIndex a) = true) :
    startIfDirty m a s = startSequence a s := by
  rw [startIfDirty_eq, if_pos hdirty]

/-- R95: on a clean address RENDERD changes nothing. -/
theorem startIfDirty_clean (m : PixelMap) (a : ScanAddr) (s : State) (hclean : addrDirty m s.dirty (addrIndex a) = false) :
    startIfDirty m a s = s := by
  rw [startIfDirty_eq, if_neg (by simp [hclean])]

/-- Accepting a rule keeps whatever the rule keeps, in IDLE and outside it. -/
theorem accept_keeps {α : Type} (field : State → α) (f : State → State) (s t : State) (hkeeps : field (f s) = field s)
    (h : accept f s = .next t) : field t = field s := by
  unfold accept at h
  injection h with h
  subst h
  split
  · exact hkeeps
  · rfl

/-- What the block has shown: the actions emitted and the pins held. -/
def outputs (s : State) : List PinAction × Pins := (s.trace, s.pins)

/-- R95, R96: the acceptance of RENDERD emits nothing. -/
theorem startIfDirty_outputs (m : PixelMap) (a : ScanAddr) (s : State) : outputs (startIfDirty m a s) = outputs s := by
  cases hdirty : addrDirty m s.dirty (addrIndex a) with
  | true => rw [startIfDirty_dirty m a s hdirty]; rfl
  | false => rw [startIfDirty_clean m a s hdirty]

/-- R93, R96: no command emits an action or moves a pin at acceptance. -/
theorem exec_keeps_outputs (i : Instr) (s t : State) (h : exec i s = .next t) : outputs t = outputs s := by
  cases i with
  | nop => exact accept_keeps outputs _ s t rfl h
  | wrpix slot col r g b => exact accept_keeps outputs _ s t rfl h
  | clrrows => exact accept_keeps outputs _ s t rfl h
  | pack => exact accept_keeps outputs _ s t rfl h
  | render a => exact accept_keeps outputs _ s t rfl h
  | wrdirty q value => exact accept_keeps outputs _ s t rfl h
  | renderd a => exact accept_keeps outputs _ s t (startIfDirty_outputs _ a s) h
  | reserved7 => exact accept_keeps outputs _ s t rfl h
  | reserved8f op => exact accept_keeps outputs _ s t rfl h

/-- R96: in IDLE the sequencer stands still. -/
theorem sequencerStep_idle (B : Nat) (s : State) (hidle : s.seq.phase = .idle) : sequencerStep B s = s := by
  simp only [sequencerStep, hidle]

/-- R96: the row ON of the sequencer's table. -/
theorem sequencerStep_on (B : Nat) (s : State) (hon : s.seq.phase = .on) :
    sequencerStep B s =
      { emit (.setOE true) s with
        seq := { s.seq with timer := exposureDuration B s.seq.plane, phase := .expose } } := by
  simp only [sequencerStep, hon, emit_seq]

/-- R98: an unreset step from IDLE keeps the outputs. -/
theorem step_idle_outputs (s t : State) (hreset : resetAsserted s = false) (hidle : s.seq.phase = .idle)
    (h : step s = .next t) : outputs t = outputs s := by
  obtain ⟨hasserted, -⟩ | ⟨-, w, -, hexec⟩ | ⟨-, -, rfl⟩ := step_cases s t h
  · simp [hreset] at hasserted
  · exact exec_keeps_outputs _ (takeWord s) t hexec
  · rw [sequencerStep_idle _ (passStep s) hidle]
    rfl

end Sys2Proof.Machine
end

section
/-! The matrix driver's light and its address mask (42_matrix_driver.md R94, R95, R104, R106): O40, O43, O14, O15. -/

namespace Sys2Proof.Machine

/-- R82 at one cell: the channel value that packed planes hold is the intensity of the pixel their column shows. -/
theorem unpackChannel_packRows (m : PixelMap) (R : Rib) (j : Fin 128) (sub : Fin 2) (c : Fin 3) :
    unpackChannel (packRows m R) j sub c = channel (ribPixel m R j sub) c :=
  BitVec.eq_of_getLsbD_eq fun i hi =>
    (unpackChannel_bit (packRows m R) j sub c ⟨i, hi⟩).trans (packRows_bit m R ⟨i, hi⟩ j sub c)

/-- Settles O40: a sequence lights the channel values its planes hold (`observe_renderTrace_exposure`), which packing makes
the intensities of the rows. -/
theorem renderLightsInProportion : Obligations.RenderLightsInProportion := by
  refine fun B m R a o => ⟨fun j sub c => ?_, fun b hb j sub c => ?_⟩
  · rw [observe_renderTrace_exposure, if_pos rfl, unpackChannel_packRows]
    rfl
  · rw [observe_renderTrace_exposure, if_neg hb, Nat.add_zero]

/-- R106: a RENDERD of a clean address changes nothing, in IDLE and outside it. -/
theorem exec_renderd_clean (a : ScanAddr) (s : State)
    (hclean : addrDirty Config.pixelMap s.dirty (addrIndex a) = false) : exec (.renderd a) s = .next s := by
  rw [exec_renderd]
  by_cases hidle : s.seq.phase = .idle
  · rw [accept_idle _ s hidle, startIfDirty_clean _ a s hclean]
  · exact accept_busy _ s hidle

/-- Settles O43: by induction on the drives, each of which lights only its own address. -/
theorem undrivenAddressGetsNoLight : Obligations.UndrivenAddressGetsNoLight := by
  refine ⟨fun B a drives o j sub c hother => ?_, fun a s hrows =>
    exec_renderd_clean a s ((addrDirty_eq_false_iff _ _ _).mpr hrows)⟩
  induction drives generalizing o with
  | nil => rfl
  | cons d ds ih =>
    have hd : a ≠ d.1 := (hother d List.mem_cons_self).symm
    rw [List.flatMap_cons, observe_append, ih _ fun e he => hother e (List.mem_cons_of_mem d he),
      observe_renderTrace_exposure, if_neg hd, Nat.add_zero]

/-- Settles O14: RENDERD's rule is RENDER's on a dirty address and `skip` on a clean one. -/
theorem renderdDrivesOnlyDirtyAddresses : Obligations.RenderdDrivesOnlyDirtyAddresses := by
  refine ⟨decode_opcode_renderd, fun a s hidle =>
    ⟨startIfDirty Config.pixelMap a s, ?_, fun hrows => ⟨?_, ?_⟩, fun hrows => ?_⟩⟩
  · rw [exec_renderd, accept_idle _ s hidle]
  · rw [exec_render, accept_idle _ s hidle, startIfDirty_dirty _ a s ((addrDirty_iff _ _ _).mpr hrows)]
  · rw [startIfDirty_dirty _ a s ((addrDirty_iff _ _ _).mpr hrows)]
    rfl
  · exact startIfDirty_clean _ a s ((addrDirty_eq_false_iff _ _ _).mpr hrows)

/-- Settles O15: bit by bit, by `addrMask_getLsbD`. -/
theorem addrMaskJoinsTheFourRows : Obligations.AddrMaskJoinsTheFourRows := by
  refine ⟨addrMask_getLsbD, fun d a => ?_⟩
  rw [addrMask_getLsbD]
  simp [addrDirty, PixelMap.default, Nat.add_comm]

end Sys2Proof.Machine
end

section
/-! One RENDER sequence and the actions it is made of (42_matrix_driver.md R87, R89, R98, R102): O37, O38, O27, O39. -/

namespace Sys2Proof.Machine

/-! ### Counts -/

theorem countP_cons_toNat {α : Type} (q : α → Bool) (x : α) (t : List α) :
    (x :: t).countP q = t.countP q + (q x).toNat := by
  rw [List.countP_cons]
  cases q x <;> rfl

theorem countP_planeShifts (q : PinAction → Bool) (shift : Bool) (hshift : ∀ d, q (.shift d) = shift) (P : Ppb) (p : Fin 3) :
    (planeShifts P p).countP q = 128 * shift.toNat := by
  have hq : ∀ x ∈ planeShifts P p, q x = shift := by
    intro x hx
    obtain ⟨j, -, rfl⟩ := List.mem_map.mp hx
    exact hshift _
  cases shift with
  | true => rw [List.countP_eq_length.mpr hq, planeShifts_length]; rfl
  | false => exact List.countP_eq_zero.mpr fun x hx => by simp [hq x hx]

/-- A count over one plane of a property that tells neither Shifts nor Waits apart by their operands. -/
theorem countP_planeTrace (q : PinAction → Bool) (shift wait : Bool) (hshift : ∀ d, q (.shift d) = shift)
    (hwait : ∀ n, q (.wait n) = wait) (B : Nat) (P : Ppb) (p : Fin 3) :
    (planeTrace B P p).countP q =
      128 * shift.toNat + (q .pulseLatch).toNat + (q (.setOE true)).toNat + wait.toNat + (q (.setOE false)).toNat := by
  rw [planeTrace, List.countP_append, countP_planeShifts q shift hshift]
  simp only [countP_cons_toNat, List.countP_nil, hwait]
  omega

/-- R102: a count over a RENDER sequence of a property that tells neither Shifts nor Waits apart by their operands. -/
theorem countP_renderTrace (q : PinAction → Bool) (shift wait : Bool) (hshift : ∀ d, q (.shift d) = shift)
    (hwait : ∀ n, q (.wait n) = wait) (B : Nat) (a : ScanAddr) (P : Ppb) :
    (renderTrace B a P).countP q =
      (q (.setRow a)).toNat + 384 * shift.toNat + 3 * (q .pulseLatch).toNat + 4 * (q (.setOE false)).toNat +
        3 * (q (.setOE true)).toNat + 3 * wait.toNat := by
  rw [renderTrace_eq]
  simp only [countP_cons_toNat, List.countP_append, countP_planeTrace q shift wait hshift hwait]
  omega

/-- R100, R102: the PulseLatches of a sequence. -/
theorem count_pulseLatch_renderTrace (B : Nat) (a : ScanAddr) (P : Ppb) : (renderTrace B a P).count .pulseLatch = 3 :=
  countP_renderTrace (· == .pulseLatch) false false (fun _ => rfl) (fun _ => rfl) B a P

theorem waitUnits_append (t u : List PinAction) : waitUnits (t ++ u) = waitUnits t + waitUnits u := by
  simp [waitUnits]

theorem waitUnits_planeTrace (B : Nat) (P : Ppb) (p : Fin 3) : waitUnits (planeTrace B P p) = B * 2 ^ p.val := by
  have hshifts : waitUnits (planeShifts P p) = 0 := by simp [waitUnits, planeShifts, Function.comp_def]
  rw [planeTrace, waitUnits_append, hshifts]
  simp [waitUnits, exposureDuration]

/-- R102: the Waits of a sequence sum to seven units of BASE_DELAY. -/
theorem waitUnits_renderTrace (B : Nat) (a : ScanAddr) (P : Ppb) : waitUnits (renderTrace B a P) = 7 * B := by
  have hhead : ∀ t, waitUnits (.setOE false :: .setRow a :: t) = waitUnits t := fun t => by simp [waitUnits]
  rw [renderTrace_eq, hhead, waitUnits_append, waitUnits_append]
  simp only [waitUnits_planeTrace, Fin.val_zero, Fin.val_one, Fin.val_two]
  omega

/-- Settles O37: each count is `countP_renderTrace` at one kind of action. -/
theorem renderTraceCounts : Obligations.RenderTraceCounts := by
  intro B a P
  have hcount := fun q shift wait hshift hwait => countP_renderTrace q shift wait hshift hwait B a P
  refine ⟨?_, ?_, ?_, count_pulseLatch_renderTrace B a P, ?_, ?_, ?_, waitUnits_renderTrace B a P⟩
  · rw [← List.countP_true]
    exact hcount _ true true (fun _ => rfl) (fun _ => rfl)
  · exact hcount _ false false (fun _ => rfl) (fun _ => rfl)
  · exact hcount _ true false (fun _ => rfl) (fun _ => rfl)
  · exact hcount (· == .setOE false) false false (fun _ => rfl) (fun _ => rfl)
  · exact hcount (· == .setOE true) false false (fun _ => rfl) (fun _ => rfl)
  · exact hcount _ false true (fun _ => rfl) (fun _ => rfl)

/-! ### Pins and exposures -/

/-- Settles O38: no command moves a pin at acceptance, and the last plane of a sequence leaves its last word on the data lines. -/
theorem renderTraceEndPins : Obligations.RenderTraceEndPins := by
  refine ⟨fun s t hreset hidle hstep => ?_, fun B a P p => ?_⟩
  · obtain ⟨htrace, hpins⟩ := Prod.mk.inj (step_idle_outputs s t hreset hidle hstep)
    exact ⟨htrace, hpins⟩
  · rw [renderTrace_eq, List.foldl_cons, List.foldl_cons, List.foldl_append, List.foldl_append]
    simp only [pinsAfter_planeTrace]
    rfl

/-- Settles O27: with clk and lat low, the level that ends a pulse is the level before it. -/
theorem actionsDriveThePins : Obligations.ActionsDriveThePins := by
  rintro ⟨row, data, clk, lat, oe⟩ hclk hlat
  obtain rfl : clk = false := hclk
  obtain rfl : lat = false := hlat
  exact ⟨fun _ => ⟨rfl, rfl⟩, fun _ => ⟨rfl, rfl⟩, fun _ => ⟨rfl, rfl⟩, ⟨rfl, rfl⟩, fun _ => ⟨rfl, rfl⟩⟩

/-- R89: no exposure is longer than that of plane 2. -/
theorem exposureDuration_le (B : Nat) (p : Fin 3) : exposureDuration B p ≤ 4 * B := by
  have hpow : 2 ^ p.val ≤ 2 ^ 2 := Nat.pow_le_pow_right (by omega) (by omega)
  calc B * 2 ^ p.val ≤ B * 2 ^ 2 := Nat.mul_le_mul_left B hpow
    _ = 4 * B := by omega

/-- Settles O39: by the row ON of the sequencer's table, which loads `exposureDuration`. -/
theorem exposureIsExact : Obligations.ExposureIsExact := by
  refine ⟨fun B => ?_, fun B s hon => ?_⟩
  · simp [exposureDuration, Nat.mul_comm]
  · rw [sequencerStep_on B s hon]
    exact ⟨rfl, Nat.lt_succ_of_le (exposureDuration_le B s.seq.plane), rfl⟩

end Sys2Proof.Machine
end

section
/-! Merging adjacent Waits (42_matrix_driver.md R88): O31. -/

namespace Sys2Proof.Machine

/-! ### The observation -/

/-- Two adjacent Waits act on the pins and the panel as one. -/
theorem observeAction_wait_wait (o : Pins × Panel) (m n : Nat) :
    observeAction (observeAction o (.wait m)) (.wait n) = observeAction o (.wait (m + n)) := by
  obtain ⟨pins, panel⟩ := o
  cases hoe : pins.oe with
  | false => simp [observeAction, pinsAfter, panelAfter, hoe]
  | true =>
    simp only [observeAction, pinsAfter, panelAfter, hoe, if_true]
    congr 2
    funext a j sub c
    by_cases ha : a = pins.row
    · simp only [ha, if_true]
      ring
    · simp only [ha, if_false]

theorem observe_wait_wait (o : Pins × Panel) (m n : Nat) (t : List PinAction) :
    observe o (.wait m :: .wait n :: t) = observe o (.wait (m + n) :: t) := by
  rw [observe_cons, observe_cons, observe_cons, observeAction_wait_wait]

/-- Putting an action before a merged list keeps the observation, whether or not it is merged too. -/
theorem observe_consMerged (o : Pins × Panel) (x : PinAction) (t : List PinAction) :
    observe o (consMerged x t) = observe o (x :: t) := by
  unfold consMerged
  split
  · exact (observe_wait_wait o _ _ _).symm
  · rfl

theorem observe_mergeWaits (o : Pins × Panel) (t : List PinAction) : observe o (mergeWaits t) = observe o t := by
  induction t generalizing o with
  | nil => rfl
  | cons x t ih => rw [mergeWaits_cons, observe_consMerged, observe_cons, observe_cons, ih]

/-! ### From the sequencer's actions to the command-level trace -/

theorem mergeWaits_cons_other (x : PinAction) (t : List PinAction) (hx : ∀ n, x ≠ .wait n) :
    mergeWaits (x :: t) = x :: mergeWaits t := by
  rw [mergeWaits_cons, consMerged_other x _ hx]

theorem mergeWaits_planeShifts_append (P : Ppb) (p : Fin 3) (t : List PinAction) :
    mergeWaits (planeShifts P p ++ t) = planeShifts P p ++ mergeWaits t := by
  rw [planeShifts]
  induction List.finRange 128 with
  | nil => rfl
  | cons j js ih =>
    rw [List.map_cons, List.cons_append, mergeWaits_cons_other _ _ (fun _ => PinAction.noConfusion), ih, List.cons_append]

/-- A Wait before an action that is no Wait stays as it is. -/
theorem consMerged_wait_other (m : Nat) (x : PinAction) (t : List PinAction) (hx : ∀ n, x ≠ .wait n) :
    consMerged (.wait m) (x :: t) = .wait m :: x :: t := by
  cases x with
  | wait n => exact absurd rfl (hx n)
  | setOE _ | setRow _ | shift _ | pulseLatch => rfl

/-- A run of `Wait(1)`, one per delay unit, merges to one Wait of its length. -/
theorem mergeWaits_replicate_wait (n : Nat) (x : PinAction) (t : List PinAction) (hx : ∀ k, x ≠ .wait k) :
    mergeWaits (List.replicate (n + 1) (.wait 1) ++ x :: t) = .wait (n + 1) :: x :: mergeWaits t := by
  induction n with
  | zero =>
    rw [List.replicate_one, List.singleton_append, mergeWaits_cons, mergeWaits_cons_other x t hx,
      consMerged_wait_other 1 x _ hx, Nat.zero_add]
  | succ n ih =>
    rw [List.replicate_succ, List.cons_append, mergeWaits_cons, ih, consMerged, Nat.add_comm 1]

/-- The actions of one plane as the sequencer emits them, one `Wait(1)` per delay unit (42_matrix_driver.md R96). -/
def planeSteps (B : Nat) (P : Ppb) (p : Fin 3) : List PinAction :=
  planeShifts P p ++ [.pulseLatch, .setOE true] ++ List.replicate (exposureDuration B p) (.wait 1) ++ [.setOE false]

theorem sequencerTrace_eq (B : Nat) (a : ScanAddr) (P : Ppb) :
    sequencerTrace B a P =
      .setOE false :: .setRow a :: (planeSteps B P 0 ++ (planeSteps B P 1 ++ planeSteps B P 2)) := by
  rw [sequencerTrace, flatMap_planes]
  rfl

/-- R88: merging one plane of the sequencer's actions gives the plane of the command-level trace. -/
theorem mergeWaits_planeSteps_append (B : Nat) (hB : 1 ≤ B) (P : Ppb) (p : Fin 3) (t : List PinAction) :
    mergeWaits (planeSteps B P p ++ t) = planeTrace B P p ++ mergeWaits t := by
  obtain ⟨n, hn⟩ : ∃ n, exposureDuration B p = n + 1 :=
    Nat.exists_eq_add_one.mpr (Nat.mul_pos hB (Nat.two_pow_pos p.val))
  simp only [planeSteps, planeTrace, hn, List.append_assoc, List.cons_append, List.nil_append]
  rw [mergeWaits_planeShifts_append, mergeWaits_cons_other _ _ (fun _ => PinAction.noConfusion),
    mergeWaits_cons_other _ _ (fun _ => PinAction.noConfusion),
    mergeWaits_replicate_wait n _ t (fun _ => PinAction.noConfusion)]

/-- Settles O31: merging joins each plane's run of `Wait(1)` (`mergeWaits_planeSteps_append`) and nothing else. -/
theorem mergedWaitsAreTheSameObservation : Obligations.MergedWaitsAreTheSameObservation := by
  refine ⟨observe_wait_wait, observe_mergeWaits, fun B a P hB => ?_⟩
  have hlast : mergeWaits (planeSteps B P 2) = planeTrace B P 2 := by
    simpa [mergeWaits] using mergeWaits_planeSteps_append B hB P 2 []
  rw [sequencerTrace_eq, renderTrace_eq, mergeWaits_cons_other _ _ (fun _ => PinAction.noConfusion),
    mergeWaits_cons_other _ _ (fun _ => PinAction.noConfusion), mergeWaits_planeSteps_append B hB,
    mergeWaits_planeSteps_append B hB, hlast]

end Sys2Proof.Machine
end

section
/-! The monitor of a trace against its pins and its Shifts (42_matrix_driver.md R99, R100): O34, O35. -/

namespace Sys2Proof.Safety

open Sys2Proof.Machine

/-! ### What the monitor allows of each action, and how it then stands -/

theorem monitorAction_setRow (B : Nat) (m m' : Monitor) (a : ScanAddr) :
    monitorAction B m (.setRow a) = some m' ↔ m.oe = false ∧ { m with shifts := 0, latches := 0 } = m' := by
  simp [monitorAction]

theorem monitorAction_shift (B : Nat) (m m' : Monitor) (d : DataWord) :
    monitorAction B m (.shift d) = some m' ↔ m.oe = false ∧ { m with shifts := m.shifts + 1 } = m' := by
  simp [monitorAction]

theorem monitorAction_pulseLatch (B : Nat) (m m' : Monitor) :
    monitorAction B m .pulseLatch = some m' ↔
      (m.oe = false ∧ m.shifts = 128) ∧ { m with shifts := 0, latches := m.latches + 1 } = m' := by
  simp [monitorAction]

theorem monitorAction_setOE_true (B : Nat) (m m' : Monitor) :
    monitorAction B m (.setOE true) = some m' ↔ m.oe = false ∧ { m with oe := true, lit := 0 } = m' := by
  simp [monitorAction]

theorem monitorAction_setOE_false (B : Nat) (m m' : Monitor) :
    monitorAction B m (.setOE false) = some m' ↔
      (m.oe = true → m.lit = B * 2 ^ (m.latches - 1)) ∧ { m with oe := false } = m' := by
  simp [monitorAction]

theorem monitorAction_wait (B : Nat) (m m' : Monitor) (n : Nat) :
    monitorAction B m (.wait n) = some m' ↔ m.oe = true ∧ { m with lit := m.lit + n } = m' := by
  simp [monitorAction]

/-- R99: an allowed SetRow, Shift or PulseLatch finds the panel blanked. -/
theorem monitorAction_blanked (B : Nat) (m m' : Monitor) (x : PinAction) (hx : needsBlank x = true)
    (h : monitorAction B m x = some m') : m.oe = false := by
  cases x with
  | setRow a => exact ((monitorAction_setRow B m m' a).mp h).1
  | shift d => exact ((monitorAction_shift B m m' d).mp h).1
  | pulseLatch => exact ((monitorAction_pulseLatch B m m').mp h).1.1
  | setOE v => cases hx
  | wait n => cases hx

/-! ### The monitor of a trace -/

theorem monitorTrace_concat (B : Nat) (t : List PinAction) (x : PinAction) :
    monitorTrace B (t ++ [x]) = (monitorTrace B t).bind fun m => monitorAction B m x := by
  simp [monitorTrace]

/-- Every initial part of a safe trace is safe. -/
theorem monitorTrace_initial (B : Nat) (t u : List PinAction) (m : Monitor) (h : monitorTrace B (t ++ u) = some m) :
    ∃ m₀, monitorTrace B t = some m₀ := by
  induction u using List.reverseRecOn generalizing m with
  | nil => exact ⟨m, by rwa [List.append_nil] at h⟩
  | append_singleton u x ih =>
    rw [← List.append_assoc, monitorTrace_concat] at h
    obtain ⟨m₁, hm₁, -⟩ := Option.bind_eq_some_iff.mp h
    exact ih m₁ hm₁

/-- At every action of a safe trace the monitor of what precedes it allows it. -/
theorem monitorTrace_allows (B : Nat) (before after : List PinAction) (x : PinAction) (m : Monitor)
    (h : monitorTrace B (before ++ x :: after) = some m) :
    ∃ m₀ m₁, monitorTrace B before = some m₀ ∧ monitorAction B m₀ x = some m₁ := by
  rw [List.append_cons] at h
  obtain ⟨m₁, hm₁⟩ := monitorTrace_initial B (before ++ [x]) after m h
  rw [monitorTrace_concat] at hm₁
  obtain ⟨m₀, hm₀, hx⟩ := Option.bind_eq_some_iff.mp hm₁
  exact ⟨m₀, m₁, hm₀, hx⟩

/-- The same for the trace of a run. -/
theorem runInv_allows (s : State) (before after : List PinAction) (x : PinAction) (hinv : runInv s)
    (htrace : s.trace = before ++ x :: after) :
    ∃ m₀ m₁, monitorTrace Config.baseDelay before = some m₀ ∧ monitorAction Config.baseDelay m₀ x = some m₁ := by
  obtain ⟨-, ⟨m, hm, -⟩, -⟩ := hinv
  exact monitorTrace_allows _ before after x m (htrace ▸ hm)

/-- The monitor's output-enable is the pin's. -/
theorem monitorTrace_oe (B : Nat) (t : List PinAction) (m : Monitor) (h : monitorTrace B t = some m) :
    m.oe = (t.foldl pinsAfter Pins.reset).oe := by
  induction t using List.reverseRecOn generalizing m with
  | nil => cases h; rfl
  | append_singleton t x ih =>
    rw [monitorTrace_concat] at h
    obtain ⟨m₀, hm₀, hx⟩ := Option.bind_eq_some_iff.mp h
    rw [List.foldl_append]
    cases x with
    | setRow a => obtain ⟨-, rfl⟩ := (monitorAction_setRow B m₀ m a).mp hx; exact ih m₀ hm₀
    | shift d => obtain ⟨-, rfl⟩ := (monitorAction_shift B m₀ m d).mp hx; exact ih m₀ hm₀
    | pulseLatch => obtain ⟨-, rfl⟩ := (monitorAction_pulseLatch B m₀ m).mp hx; exact ih m₀ hm₀
    | wait n => obtain ⟨-, rfl⟩ := (monitorAction_wait B m₀ m n).mp hx; exact ih m₀ hm₀
    | setOE v =>
      cases v with
      | true => obtain ⟨-, rfl⟩ := (monitorAction_setOE_true B m₀ m).mp hx; rfl
      | false => obtain ⟨-, rfl⟩ := (monitorAction_setOE_false B m₀ m).mp hx; rfl

/-- The monitor counts the Shifts since the last PulseLatch or SetRow. -/
theorem monitorTrace_shifts (B : Nat) (t : List PinAction) (m : Monitor) (h : monitorTrace B t = some m) :
    m.shifts = shiftsSince t := by
  induction t using List.reverseRecOn generalizing m with
  | nil => cases h; rfl
  | append_singleton t x ih =>
    rw [monitorTrace_concat] at h
    obtain ⟨m₀, hm₀, hx⟩ := Option.bind_eq_some_iff.mp h
    rw [shiftsSince, List.foldl_append]
    cases x with
    | setRow a => obtain ⟨-, rfl⟩ := (monitorAction_setRow B m₀ m a).mp hx; rfl
    | shift d => obtain ⟨-, rfl⟩ := (monitorAction_shift B m₀ m d).mp hx; exact congrArg (· + 1) (ih m₀ hm₀)
    | pulseLatch => obtain ⟨-, rfl⟩ := (monitorAction_pulseLatch B m₀ m).mp hx; rfl
    | wait n => obtain ⟨-, rfl⟩ := (monitorAction_wait B m₀ m n).mp hx; exact ih m₀ hm₀
    | setOE v =>
      cases v with
      | true => obtain ⟨-, rfl⟩ := (monitorAction_setOE_true B m₀ m).mp hx; exact ih m₀ hm₀
      | false => obtain ⟨-, rfl⟩ := (monitorAction_setOE_false B m₀ m).mp hx; exact ih m₀ hm₀

/-! ### R99 and R100 -/

/-- Settles O34: the monitor allows these actions only while blanked, and its output-enable is the pin's. -/
theorem rowShiftAndLatchAreBlanked : Obligations.RowShiftAndLatchAreBlanked := by
  intro s before after x hinv htrace hx
  obtain ⟨m₀, m₁, hm₀, hallowed⟩ := runInv_allows s before after x hinv htrace
  rw [← monitorTrace_oe _ before m₀ hm₀]
  exact monitorAction_blanked _ m₀ m₁ x hx hallowed

/-- Settles O35: the monitor allows a PulseLatch only at 128 Shifts, and its count is that of the trace. -/
theorem latchFollowsExactly128Shifts : Obligations.LatchFollowsExactly128Shifts := by
  refine ⟨fun s before after hinv htrace => ?_, count_pulseLatch_renderTrace⟩
  obtain ⟨m₀, m₁, hm₀, hallowed⟩ := runInv_allows s before after .pulseLatch hinv htrace
  obtain ⟨⟨-, hshifts⟩, -⟩ := (monitorAction_pulseLatch _ m₀ m₁).mp hallowed
  rw [← monitorTrace_shifts _ before m₀ hm₀, hshifts]

end Sys2Proof.Safety
end

section
/-! No command raises an exception and no step stops the block (60_exceptions.md R107): O6. -/

namespace Sys2Proof.Machine

/-- Acceptance answers a next state, whatever the rule and whether or not the block is ready. -/
theorem accept_answers_next (f : State → State) (s : State) : ∃ t, accept f s = .next t :=
  ⟨if s.ready then f s else s, rfl⟩

/-- 30_encoding.md R59: the meaning of a command is the acceptance of one rule on states, the same in every state. -/
theorem exec_is_acceptance (i : Instr) : ∃ f : State → State, ∀ s, exec i s = accept f s := by
  cases i with
  | nop => exact ⟨_, exec_nop⟩
  | wrpix slot col r g b => exact ⟨_, exec_wrpix slot col r g b⟩
  | clrrows => exact ⟨_, exec_clrrows⟩
  | pack => exact ⟨_, exec_pack⟩
  | render a => exact ⟨_, exec_render a⟩
  | wrdirty q value => exact ⟨_, exec_wrdirty q value⟩
  | renderd a => exact ⟨_, exec_renderd a⟩
  | reserved7 => exact ⟨_, exec_reserved7⟩
  | reserved8f op => exact ⟨_, exec_reserved8f op⟩

/-- R107: a command answers a next state, in any state and with any operand. -/
theorem exec_answers_next (i : Instr) (s : State) : ∃ t, exec i s = .next t := by
  obtain ⟨f, hexec⟩ := exec_is_acceptance i
  rw [hexec]
  exact accept_answers_next f s

/-- R107, R111: a step takes reset, accepts a word or moves the sequencer, and each of the three answers a next state. -/
theorem step_answers_next (s : State) : ∃ t, step s = .next t := by
  cases hreset : resetAsserted s with
  | true => exact ⟨_, step_reset s hreset⟩
  | false =>
    cases hword : acceptedWord s with
    | some w =>
      rw [step_accept s w hreset hword]
      exact exec_answers_next (decode w) (takeWord s)
    | none => exact ⟨_, step_pass s hreset hword⟩

/-- Settles O6: `Fault` has no constructor, every command is the acceptance of a rule, and the three kinds of step all answer
a next state. -/
theorem nothingStopsTheBlock : Obligations.NothingStopsTheBlock :=
  ⟨nofun, exec_answers_next, step_answers_next⟩

end Sys2Proof.Machine
end

section
/-! The decoder and the encoder (30_encoding.md R61 to R68): O45, O47, O46, O48. -/

namespace Sys2Proof

/-! ### Round trip -/

theorem decode_opcode_render (w : Word) (hop : opcodeField w = 0x4#4) : decode w = .render (w.extractLsb' 0 4) := by
  simp [decode, hop]

theorem decode_opcode_reserved7 (w : Word) (hop : opcodeField w = 0x7#4) : decode w = .reserved7 := by
  simp [decode, hop]

/-- R65: the opcodes 0x8 to 0xF, those with the top bit set, decode to the second reserved row. -/
theorem decode_opcode_reserved8f (w : Word) (hop : (opcodeField w).msb = true) :
    decode w = .reserved8f (opcodeField w) := by
  rw [← opcode_decode w] at hop ⊢
  cases hdec : decode w with
  | reserved8f op => rfl
  | nop | wrpix _ _ _ _ _ | clrrows | pack | render _ | wrdirty _ _ | renderd _ | reserved7 =>
    rw [hdec, Instr.opcode] at hop
    exact absurd hop (by decide)

/-- R61, R64: each field of a format is read back from its own place, and the fields beside it do not reach into it. -/
theorem decode_encode (i : Instr) (hwf : i.wf = true) : decode (encode i) = i := by
  cases i with
  | nop => exact decode_opcode_nop _ Laws.OpcodeField.nop
  | wrpix slot col r g b =>
    rw [decode_opcode_wrpix _ (Laws.OpcodeField.wrpix slot col r g b)]
    simp [encode, formatP, extract_or, extract_field_self, extract_field_above, extract_field_below]
  | clrrows => exact decode_opcode_clrrows _ Laws.OpcodeField.clrrows
  | pack => exact Machine.decode_opcode_pack _ Laws.OpcodeField.pack
  | render addr =>
    rw [decode_opcode_render _ (Laws.OpcodeField.render addr)]
    simp [encode, formatA, extract_or, extract_field_self, extract_field_below]
  | wrdirty q value =>
    rw [decode_opcode_wrdirty _ (Laws.OpcodeField.wrdirty q value)]
    simp [encode, formatQ, extract_or, extract_field_self, extract_field_above, extract_field_below]
  | renderd addr =>
    rw [Machine.decode_opcode_renderd _ (Laws.OpcodeField.renderd addr)]
    simp [encode, formatA, extract_or, extract_field_self, extract_field_below]
  | reserved7 => exact decode_opcode_reserved7 _ Laws.OpcodeField.reserved7
  | reserved8f op =>
    have hop : opcodeField (encode (.reserved8f op)) = op := Laws.OpcodeField.reserved8f op
    rw [decode_opcode_reserved8f _ (by rw [hop]; exact hwf), hop]

/-- Settles O45. -/
theorem decodeEncodeRoundTrip : Obligations.DecodeEncodeRoundTrip := decode_encode

/-- Settles O47: by evaluation, word by word. -/
theorem specWordsDecode : Obligations.SpecWordsDecode := by
  unfold Obligations.SpecWordsDecode
  decide

/-! ### Every word -/

/-- The opcodes with the top bit clear are 0x0 to 0x7. -/
theorem opcode_low (op : BitVec 4) (hlow : op.msb = false) :
    op = 0x0 ∨ op = 0x1 ∨ op = 0x2 ∨ op = 0x3 ∨ op = 0x4 ∨ op = 0x5 ∨ op = 0x6 ∨ op = 0x7 := by
  revert op
  decide

/-- R67: every word decodes to a well-formed command. -/
theorem decode_wf (w : Word) : (decode w).wf = true := by
  cases hmsb : (opcodeField w).msb with
  | true =>
    rw [decode_opcode_reserved8f w hmsb]
    exact hmsb
  | false =>
    obtain hop | hop | hop | hop | hop | hop | hop | hop := opcode_low _ hmsb <;> simp [decode, hop, Instr.wf]

/-- Bits flipped outside a field do not reach it. -/
theorem extract_flip (w v mask : Word) (lo len : Nat) (houtside : mask.extractLsb' lo len = 0#len) :
    (w ^^^ (v &&& mask)).extractLsb' lo len = w.extractLsb' lo len := by
  rw [BitVec.extractLsb'_xor, BitVec.extractLsb'_and, houtside, BitVec.and_zero, BitVec.xor_zero]

theorem opcodeField_flip (w v mask : Word) (houtside : mask.extractLsb' 28 4 = 0#4) :
    opcodeField (w ^^^ (v &&& mask)) = opcodeField w :=
  extract_flip w v mask 28 4 houtside

/-- Settles O46: a format's reserved bits are outside its opcode field and outside its operand fields. -/
theorem reservedBitsAreIgnored : Obligations.ReservedBitsAreIgnored := by
  refine ⟨decode_wf, fun w v => ⟨fun hop => ?_, fun hop => ?_, fun hop => ?_, fun hop => ?_⟩⟩
  · have hop' := opcodeField_flip w v 0x0FFFFFFF#32 (by decide)
    obtain hop | hop | hop := hop <;> simp only [decode, hop', hop]
  · have hop' := opcodeField_flip w v 0x0CC0FE00#32 (by decide)
    have hfield := extract_flip w v 0x0CC0FE00#32
    rw [decode_opcode_wrpix _ (hop'.trans hop), decode_opcode_wrpix w hop, hfield 24 2 (by decide),
      hfield 16 6 (by decide), hfield 0 3 (by decide), hfield 3 3 (by decide), hfield 6 3 (by decide)]
  · have hop' := opcodeField_flip w v 0x0FFFFFF0#32 (by decide)
    have haddr := extract_flip w v 0x0FFFFFF0#32 0 4 (by decide)
    obtain hop | hop := hop <;> simp only [decode, hop', hop, haddr]
  · have hop' := opcodeField_flip w v 0x0FFC0000#32 (by decide)
    have hfield := extract_flip w v 0x0FFC0000#32
    rw [decode_opcode_wrdirty _ (hop'.trans hop), decode_opcode_wrdirty w hop, hfield 16 2 (by decide),
      hfield 0 16 (by decide)]

/-! ### The assembler's words -/

/-- A field's word as a number: its value shifted to its place. -/
theorem toNat_field {n : Nat} (v : BitVec n) (lo : Nat) (hfits : lo + n ≤ 32) : (field v lo).toNat = v.toNat * 2 ^ lo := by
  have hbound : v.toNat * 2 ^ lo < 2 ^ 32 :=
    calc v.toNat * 2 ^ lo < 2 ^ n * 2 ^ lo := Nat.mul_lt_mul_of_pos_right v.isLt (Nat.two_pow_pos lo)
      _ = 2 ^ (lo + n) := by rw [Nat.pow_add, Nat.mul_comm]
      _ ≤ 2 ^ 32 := Nat.pow_le_pow_right (by omega) hfits
  have hwidth : v.toNat < 2 ^ 32 := v.isLt.trans_le (Nat.pow_le_pow_right (by omega) (by omega))
  rw [field, BitVec.toNat_shiftLeft, BitVec.toNat_setWidth, Nat.mod_eq_of_lt hwidth, Nat.shiftLeft_eq,
    Nat.mod_eq_of_lt hbound]

/-- A field joined with a word that stays below its place is their sum. -/
theorem toNat_field_or {n : Nat} (v : BitVec n) (lo : Nat) (x : Word) (hfits : lo + n ≤ 32) (hx : x.toNat < 2 ^ lo) :
    (field v lo ||| x).toNat = v.toNat * 2 ^ lo + x.toNat := by
  rw [BitVec.toNat_or, toNat_field v lo hfits, ← Nat.shiftLeft_eq, Nat.shiftLeft_add_eq_or_of_lt hx]

theorem toNat_formatP (op : BitVec 4) (slot : BitVec 2) (col : BitVec 6) (r g b : BitVec 3) :
    (formatP op slot col r g b).toNat =
      op.toNat * 2 ^ 28 + slot.toNat * 2 ^ 24 + col.toNat * 2 ^ 16 + b.toNat * 2 ^ 6 + g.toNat * 2 ^ 3 + r.toNat := by
  have hr := toNat_field r 0 (by omega)
  have hg := toNat_field_or g 3 _ (by omega) (by rw [hr]; omega)
  have hb := toNat_field_or b 6 _ (by omega) (by rw [hg, hr]; omega)
  have hcol := toNat_field_or col 16 _ (by omega) (by rw [hb, hg, hr]; omega)
  have hslot := toNat_field_or slot 24 _ (by omega) (by rw [hcol, hb, hg, hr]; omega)
  have hop := toNat_field_or op 28 _ (by omega) (by rw [hslot, hcol, hb, hg, hr]; omega)
  simp only [formatP, BitVec.or_assoc]
  rw [hop, hslot, hcol, hb, hg, hr]
  omega

theorem toNat_formatA (op addr : BitVec 4) : (formatA op addr).toNat = op.toNat * 2 ^ 28 + addr.toNat := by
  have haddr := toNat_field addr 0 (by omega)
  have hop := toNat_field_or op 28 _ (by omega) (by rw [haddr]; omega)
  rw [formatA, hop, haddr]
  omega

theorem toNat_formatQ (op : BitVec 4) (q : BitVec 2) (value : BitVec 16) :
    (formatQ op q value).toNat = op.toNat * 2 ^ 28 + q.toNat * 2 ^ 16 + value.toNat := by
  have hvalue := toNat_field value 0 (by omega)
  have hq := toNat_field_or q 16 _ (by omega) (by rw [hvalue]; omega)
  have hop := toNat_field_or op 28 _ (by omega) (by rw [hq, hvalue]; omega)
  simp only [formatQ, BitVec.or_assoc]
  rw [hop, hq, hvalue]
  omega

/-- A word is given by its number. -/
theorem word_eq_ofNat (w : Word) (n : Nat) (h : w.toNat = n) : w = BitVec.ofNat 32 n := by
  rw [← h, BitVec.ofNat_toNat, BitVec.setWidth_eq]

namespace Machine

/-- R68: an operand check lets through exactly the operands in range, and the word is then the encoder's. -/
theorem assemble_check (c : Prop) [Decidable c] (i : Instr) (w : Word) (hword : c → encode i = w) :
    (((if c then some i else none).map fun i => [i]).map fun is => is.map encode) = if c then some [w] else none := by
  by_cases hc : c
  · simp [hc, hword hc]
  · simp [hc]

/-- Settles O48: in range, the encoder's fields do not overlap, so the word is the sum of its shifted operands. -/
theorem assemblerFollowsItsTable : Obligations.AssemblerFollowsItsTable := by
  refine ⟨fun slot col r g b => assemble_check _ _ _ fun hrange => word_eq_ofNat _ _ ?_,
    fun a => assemble_check _ _ _ fun hrange => word_eq_ofNat _ _ ?_,
    fun a => assemble_check _ _ _ fun hrange => word_eq_ofNat _ _ ?_,
    fun q value => assemble_check _ _ _ fun hrange => word_eq_ofNat _ _ ?_, rfl, rfl, rfl⟩
  · rw [encode, toNat_formatP]
    simp only [BitVec.toNat_ofNat]
    omega
  · rw [encode, toNat_formatA]
    simp only [BitVec.toNat_ofNat]
    omega
  · rw [encode, toNat_formatA]
    simp only [BitVec.toNat_ofNat]
    omega
  · rw [encode, toNat_formatQ]
    simp only [BitVec.toNat_ofNat]
    omega

end Machine

end Sys2Proof
end

section
/-! SUPPORT. The sequencer's table as a relation on its registers (42_matrix_driver.md R96): what each step outside IDLE emits
and where it goes. -/

namespace Sys2Proof.Machine

/-- A row of the sequencer's table outside IDLE: with BASE_DELAY `B` and planes `P`, registers `q` emit an action and become
`q'`. `exposeLast` covers timer 0 with the table's timer 1, as the model does (log 12). -/
inductive SequencerRow (B : Nat) (P : Ppb) (q : Seq) : PinAction → Seq → Prop
  | blankIn (hphase : q.phase = .blankIn) : SequencerRow B P q (.setOE false) { q with phase := .setRow }
  | setRow (hphase : q.phase = .setRow) : SequencerRow B P q (.setRow q.addr) { q with phase := .shift }
  | shift (hphase : q.phase = .shift) (hcol : q.col.toNat < 127) :
    SequencerRow B P q (.shift (ppbData P q.plane (chainIndex q.col))) { q with col := q.col + 1 }
  | shiftLast (hphase : q.phase = .shift) (hcol : q.col.toNat = 127) :
    SequencerRow B P q (.shift (ppbData P q.plane (chainIndex q.col))) { q with col := 0, phase := .latch }
  | latch (hphase : q.phase = .latch) : SequencerRow B P q .pulseLatch { q with phase := .on }
  | on (hphase : q.phase = .on) :
    SequencerRow B P q (.setOE true) { q with timer := exposureDuration B q.plane, phase := .expose }
  | expose (hphase : q.phase = .expose) (htimer : 1 < q.timer) :
    SequencerRow B P q (.wait 1) { q with timer := q.timer - 1 }
  | exposeLast (hphase : q.phase = .expose) (htimer : q.timer ≤ 1) :
    SequencerRow B P q (.wait 1) { q with timer := 0, phase := .off }
  | off (hphase : q.phase = .off) (hplane : q.plane.val < 2) :
    SequencerRow B P q (.setOE false) { q with plane := q.plane + 1, phase := .shift }
  | offLast (hphase : q.phase = .off) (hplane : q.plane.val = 2) :
    SequencerRow B P q (.setOE false) { q with plane := 0, phase := .idle }

/-- Before the last column, seq.col + 1 does not wrap. -/
theorem toNat_col_succ (col : BitVec 7) (hcol : col.toNat < 127) : (col + 1).toNat = col.toNat + 1 := by
  rw [BitVec.toNat_add]
  exact Nat.mod_eq_of_lt (Nat.succ_lt_succ hcol)

/-- The model's sequencer takes the row that applies. -/
theorem sequencerStep_of_row {B : Nat} {s : State} {x : PinAction} {q : Seq} (hrow : SequencerRow B s.ppb s.seq x q) :
    sequencerStep B s = { emit x s with seq := q } := by
  cases hrow with
  | blankIn hphase | setRow hphase | latch hphase | on hphase => simp only [sequencerStep, hphase, emit_seq]
  | shift hphase hcol =>
    have hlt : s.seq.col < 127#7 := hcol
    simp only [sequencerStep, hphase, if_pos hlt, emit_seq]
  | shiftLast hphase hcol =>
    have hlast : ¬s.seq.col < 127#7 := fun hlt => hcol.not_lt hlt
    simp only [sequencerStep, hphase, if_neg hlast, emit_seq]
  | expose hphase htimer => simp only [sequencerStep, hphase, if_pos htimer, emit_seq]
  | exposeLast hphase htimer => simp only [sequencerStep, hphase, if_neg htimer.not_gt, emit_seq]
  | off hphase hplane =>
    have hlt : s.seq.plane < 2 := hplane
    simp only [sequencerStep, hphase, if_pos hlt, emit_seq]
  | offLast hphase hplane =>
    have hlast : ¬s.seq.plane < 2 := fun hlt => hplane.not_lt hlt
    simp only [sequencerStep, hphase, if_neg hlast, emit_seq]

/-- Outside IDLE some row applies. -/
theorem exists_sequencerRow (B : Nat) (P : Ppb) (q : Seq) (hbusy : q.phase ≠ .idle) :
    ∃ x q', SequencerRow B P q x q' := by
  cases hphase : q.phase with
  | idle => exact absurd hphase hbusy
  | blankIn => exact ⟨_, _, .blankIn hphase⟩
  | setRow => exact ⟨_, _, .setRow hphase⟩
  | shift =>
    obtain hcol | hcol : q.col.toNat < 127 ∨ q.col.toNat = 127 := by omega
    · exact ⟨_, _, .shift hphase hcol⟩
    · exact ⟨_, _, .shiftLast hphase hcol⟩
  | latch => exact ⟨_, _, .latch hphase⟩
  | on => exact ⟨_, _, .on hphase⟩
  | expose =>
    obtain htimer | htimer := Nat.lt_or_ge 1 q.timer
    · exact ⟨_, _, .expose hphase htimer⟩
    · exact ⟨_, _, .exposeLast hphase htimer⟩
  | off =>
    obtain hplane | hplane : q.plane.val < 2 ∨ q.plane.val = 2 := by omega
    · exact ⟨_, _, .off hphase hplane⟩
    · exact ⟨_, _, .offLast hphase hplane⟩

/-- A row applies outside IDLE only. -/
theorem SequencerRow.busy {B : Nat} {P : Ppb} {q q' : Seq} {x : PinAction} (hrow : SequencerRow B P q x q') :
    q.phase ≠ .idle := by
  intro hidle
  cases hrow with
  | blankIn hphase | setRow hphase | latch hphase | on hphase => exact absurd (hidle.symm.trans hphase) Phase.noConfusion
  | shift hphase _ | shiftLast hphase _ | expose hphase _ | exposeLast hphase _ | off hphase _ | offLast hphase _ =>
    exact absurd (hidle.symm.trans hphase) Phase.noConfusion

/-- Everything the sequencer can do: stand still in IDLE, or take a row. -/
theorem sequencerStep_cases (B : Nat) (s : State) :
    (s.seq.phase = .idle ∧ sequencerStep B s = s) ∨
    ∃ x q, SequencerRow B s.ppb s.seq x q ∧ sequencerStep B s = { emit x s with seq := q } := by
  by_cases hidle : s.seq.phase = .idle
  · exact .inl ⟨hidle, sequencerStep_idle B s hidle⟩
  · obtain ⟨x, q, hrow⟩ := exists_sequencerRow B s.ppb s.seq hidle
    exact .inr ⟨x, q, hrow, sequencerStep_of_row hrow⟩

end Sys2Proof.Machine
end

section
/-! The sequencer's table (42_matrix_driver.md R96): O25. -/

namespace Sys2Proof.Machine

/-- Settles O25: each clause is a row of `SequencerRow`, which the sequencer takes. -/
theorem sequencerFollowsItsTable : Obligations.SequencerFollowsItsTable := by
  intro B s
  refine ⟨sequencerStep_idle B s, fun h => sequencerStep_of_row (.blankIn h), fun h => sequencerStep_of_row (.setRow h),
    fun h hcol => sequencerStep_of_row (.shift h hcol), fun h hcol => ?_, fun h => sequencerStep_of_row (.latch h),
    fun h => sequencerStep_of_row (.on h), fun h htimer => sequencerStep_of_row (.expose h htimer),
    fun h htimer => sequencerStep_of_row (.exposeLast h htimer.le),
    fun h hplane => sequencerStep_of_row (.off h hplane), fun h hplane => sequencerStep_of_row (.offLast h hplane)⟩
  have hlast : chainIndex s.seq.col = 127 := Fin.ext hcol
  rw [sequencerStep_of_row (.shiftLast h hcol), hlast]
  rfl

end Sys2Proof.Machine
end

section
/-! Reset and the step (30_encoding.md R59, 70_reset_and_hazards.md R119, 42_matrix_driver.md R96, R103): O2, O3, O4, O5, O7,
O20, O50, O51. -/

namespace Sys2Proof.Machine

/-! ### Which word a step accepts, and where the host's side goes -/

theorem acceptedWord_busy (s : State) (hbusy : s.seq.phase ≠ .idle) : acceptedWord s = none := by
  simp [acceptedWord, State.ready, hbusy]

theorem acceptedWord_absent (s : State) (habsent : s.port.words.headD none = none) : acceptedWord s = none := by
  rw [acceptedWord, habsent, ite_self]

/-- R59: a presented word is held through a step that does not accept it. -/
theorem passStep_presented (s : State) (w : Word) (ws : List (Option Word)) (hport : s.port.words = some w :: ws) :
    passStep s = { s with port := { words := some w :: ws, resets := s.port.resets.tail } } := by
  rw [passStep, portWaited, hport]

/-- A step with no word presented moves on to what the host presents next. -/
theorem passStep_absent (s : State) (habsent : s.port.words.headD none = none) :
    passStep s = { s with port := { words := s.port.words.tail, resets := s.port.resets.tail } } := by
  rw [passStep, portWaited]
  cases hwords : s.port.words with
  | nil => rfl
  | cons w ws =>
    rw [hwords, List.headD_cons] at habsent
    rw [habsent, List.tail_cons]

/-- R59: with the block ready and `w` presented, the step is the command of `w` at the state that has taken it. -/
theorem step_presented (s : State) (w : Word) (ws : List (Option Word)) (hreset : resetAsserted s = false)
    (hidle : s.seq.phase = .idle) (hport : s.port.words = some w :: ws) :
    step s = exec (decode w) { s with port := { words := ws, resets := s.port.resets.tail } } := by
  rw [step_accept s w hreset (acceptedWord_presented s w ws hidle hport), takeWord, portAccepted, hport, List.tail_cons]

/-- R97: outside IDLE an unreset step is one step of the sequencer. -/
theorem step_busy (s : State) (hreset : resetAsserted s = false) (hbusy : s.seq.phase ≠ .idle) :
    step s = .next (sequencerStep Config.baseDelay (passStep s)) :=
  step_pass s hreset (acceptedWord_busy s hbusy)

/-- Outside IDLE the block does not see a command. -/
theorem exec_busy (i : Instr) (s : State) (hbusy : s.seq.phase ≠ .idle) : exec i s = .next s := by
  obtain ⟨f, hexec⟩ := exec_is_acceptance i
  rw [hexec, accept_busy f s hbusy]

/-- Settles O3. -/
theorem stepRunsTheDecodedCommand : Obligations.StepRunsTheDecodedCommand := step_presented

/-- Settles O4: no word is accepted outside IDLE, and a presented word is held. -/
theorem busyStepHoldsTheWord : Obligations.BusyStepHoldsTheWord := by
  intro s w ws hreset hbusy hport
  rw [step_busy s hreset hbusy, passStep_presented s w ws hport]

/-- Settles O5: no word is accepted, and the sequencer stands still. -/
theorem idleStepChangesNothing : Obligations.IdleStepChangesNothing := by
  intro s hreset hidle habsent
  refine ⟨passStep s, ?_, passStep_absent s habsent⟩
  rw [step_pass s hreset (acceptedWord_absent s habsent), sequencerStep_idle _ (passStep s) hidle]

/-- Settles O7. -/
theorem busyBlockSeesNoCommand : Obligations.BusyBlockSeesNoCommand := exec_busy

/-! ### Reset -/

/-- Settles O2: the state after reset holds the reset values, and its stores the free values of one more reset. -/
theorem resetStepEndsEverything : Obligations.ResetStepEndsEverything := by
  intro s hreset
  refine ⟨takeReset s, step_reset s hreset, rfl, rfl, rfl, rfl, rfl, rfl, rfl, fun k x => ?_, rfl, rfl, fun k x => ?_,
    fun p j => ?_, rfl⟩
  all_goals simp [takeReset, State.resetAt]

/-- R103: the panel's account after any reset is empty. -/
theorem panelReset_exposure (cut : Bool) (n : Nat) (a : ScanAddr) (j : Fin 128) (sub : Fin 2) (c : Fin 3) :
    (panelReset cut n).exposure a j sub c = 0 := rfl

/-- Settles O50: nothing is emitted after a reset, so the observation is the panel's start, and `cutsShort` says whether its
shift list is open. -/
theorem observationStartsAtReset : Obligations.ObservationStartsAtReset := by
  refine ⟨rfl, panelReset_exposure _ _, fun s t hreset hstep => ?_⟩
  rw [step_reset s hreset] at hstep
  obtain rfl : takeReset s = t := by injection hstep
  refine ⟨rfl, panelReset_exposure _ _, fun hidle hstands => ?_, fun hcut => ?_, panelReset_sr_length_le _ _⟩
  · have hcut : cutsShort s = false := by
      rw [← Bool.not_eq_true, cutsShort_iff]
      rintro (hbusy | ⟨hcut, htrace⟩)
      · exact hbusy hidle
      · obtain hno | hemitted := hstands
        · rw [hno] at hcut; cases hcut
        · exact hemitted htrace
    refine ⟨?_, hcut⟩
    rw [observation, takeReset_cutShort, hcut]
    rfl
  · rw [takeReset_cutShort, cutsShort_iff]
    exact hcut

end Sys2Proof.Machine
end

section
/-! The commands at acceptance (10_state.md section 1, 20_memory.md sections 3 and 4, 30_encoding.md section 1): O13, O16, O17,
O18, O21. -/

namespace Sys2Proof.Machine

/-! ### The rule a command runs -/

/-- The rule that the acceptance of a command runs (30_encoding.md R59). -/
def acceptanceRule : Instr → State → State
  | .nop => id
  | .wrpix slot col r g b => writeCell (slotIndex slot) (colIndex col) ⟨r, g, b⟩
  | .clrrows => clearCells
  | .pack => packBuffer Config.pixelMap
  | .render a => startSequence a
  | .wrdirty q value => writeQuarter q value
  | .renderd a => startIfDirty Config.pixelMap a
  | .reserved7 => id
  | .reserved8f _ => id

theorem exec_eq_accept (i : Instr) (s : State) : exec i s = accept (acceptanceRule i) s := by
  cases i <;> rfl

theorem exec_idle (i : Instr) (s : State) (hidle : s.seq.phase = .idle) : exec i s = .next (acceptanceRule i s) := by
  rw [exec_eq_accept, accept_idle _ s hidle]

/-- Everything a command can do: nothing, or in IDLE its rule. -/
theorem exec_cases (i : Instr) (s t : State) (h : exec i s = .next t) :
    t = s ∨ (s.seq.phase = .idle ∧ t = acceptanceRule i s) := by
  by_cases hidle : s.seq.phase = .idle
  · rw [exec_idle i s hidle] at h
    injection h with h
    exact .inr ⟨hidle, h.symm⟩
  · rw [exec_busy i s hidle] at h
    injection h with h
    exact .inl h.symm

/-- Settles O13. -/
theorem renderStartsItsSequence : Obligations.RenderStartsItsSequence := by
  refine ⟨decode_opcode_render, fun a s hidle => ?_⟩
  have hstale : (s.stale || !s.fresh) = if s.fresh then s.stale else true := by cases s.fresh <;> simp
  rw [exec_idle _ s hidle, ← hstale]
  rfl

/-! ### Frames and completion -/

/-- Settles O16: the frame of each rule; RENDERD's is RENDER's on a dirty address. -/
theorem eachStoreHasItsOwnWriters : Obligations.EachStoreHasItsOwnWriters := by
  intro i s t h
  obtain rfl | ⟨-, rfl⟩ := exec_cases i s t h
  · simp
  · cases i with
    | nop | wrpix _ _ _ _ _ | clrrows | pack | render _ | wrdirty _ _ | reserved7 | reserved8f _ => simp [acceptanceRule]
    | renderd a =>
      cases hdirty : addrDirty Config.pixelMap s.dirty (addrIndex a) with
      | true => simp [acceptanceRule, startIfDirty_dirty _ a s hdirty]
      | false => simp [acceptanceRule, startIfDirty_clean _ a s hdirty]

/-- Settles O17: only the rule of RENDER moves the phase, and RENDERD runs it on a dirty address. -/
theorem onlyRenderLeavesIdle : Obligations.OnlyRenderLeavesIdle := by
  intro i s t hidle h
  rw [exec_idle i s hidle] at h
  obtain rfl : acceptanceRule i s = t := by injection h
  cases i with
  | nop | wrpix _ _ _ _ _ | clrrows | pack | render _ | wrdirty _ _ | reserved7 | reserved8f _ =>
    simp [acceptanceRule, hidle]
  | renderd a =>
    have hrows := addrDirty_iff Config.pixelMap s.dirty (addrIndex a)
    cases hdirty : addrDirty Config.pixelMap s.dirty (addrIndex a) with
    | true =>
      rw [acceptanceRule, startIfDirty_dirty _ a s hdirty]
      exact iff_of_true Phase.noConfusion ⟨a, .inr ⟨rfl, hrows.mp hdirty⟩⟩
    | false =>
      rw [acceptanceRule, startIfDirty_clean _ a s hdirty]
      refine iff_of_false (not_not_intro hidle) ?_
      rintro ⟨b, hrender | ⟨hrenderd, hrow⟩⟩
      · cases hrender
      · cases hrenderd
        rw [hrows.mpr hrow] at hdirty
        cases hdirty

/-! ### Idempotence -/

theorem setQuarter_twice (d : BitVec 64) (q : BitVec 2) (value : BitVec 16) :
    setQuarter (setQuarter d q value) q value = setQuarter d q value := by
  apply BitVec.eq_of_getLsbD_eq
  intro i hi
  rw [setQuarter_bit _ q value i hi, setQuarter_bit d q value i hi]
  split <;> rfl

/-- A rule that does nothing more the second time is idempotent at acceptance, in IDLE and outside it. -/
theorem accept_idempotent (f : State → State) (htwice : ∀ s, f (f s) = f s) (s t : State) (h : accept f s = .next t) :
    accept f t = .next t := by
  by_cases hidle : s.seq.phase = .idle
  · rw [accept_idle f s hidle] at h
    obtain rfl : f s = t := by injection h
    rw [accept, htwice, ite_self]
  · rw [accept_busy f s hidle] at h
    obtain rfl : s = t := by injection h
    exact accept_busy f s hidle

/-- Settles O18: each of the four rules does nothing more the second time. -/
theorem writesAndPackAreIdempotent : Obligations.WritesAndPackAreIdempotent := by
  refine fun s t => ⟨fun slot col r g b => accept_idempotent _ (fun s => ?_) s t, accept_idempotent clearCells (fun _ => rfl) s t,
    fun q value => accept_idempotent _ (fun s => ?_) s t, accept_idempotent _ (fun s => ?_) s t⟩
  · simp only [writeCell, setCell_twice]
  · simp only [writeQuarter, setQuarter_twice]
  · simp only [packBuffer, recordUndef, setFresh, Bool.or_assoc, Bool.or_self]

/-- Settles O21: PACK sets fresh, a RENDERD of a clean address keeps it, and with fresh = 1 a RENDER records nothing. -/
theorem skippedRenderdKeepsFresh : Obligations.SkippedRenderdKeepsFresh := by
  intro a b s hidle hrows
  have hclean := (addrDirty_eq_false_iff _ _ _).mpr hrows
  refine ⟨packBuffer Config.pixelMap s, startSequence b (packBuffer Config.pixelMap s), exec_idle _ s hidle,
    exec_renderd_clean a _ hclean, rfl, exec_idle _ _ hidle, ?_, ?_, rfl, rfl⟩
  · simp
  · simp

end Sys2Proof.Machine
end

section
/-! What an unreset step emits, records and reads (10_state.md R34, 20_memory.md section 4, 60_exceptions.md R109,
42_matrix_driver.md R103): O51, O20, O19. -/

namespace Sys2Proof.Machine

/-! ### The trace and the observation -/

/-- An unreset step appends at most one action to the trace, and touches neither the count of resets nor the record of a
cut. -/
theorem step_emits (s t : State) (hreset : resetAsserted s = false) (h : step s = .next t) :
    ∃ acts : List PinAction, acts.length ≤ 1 ∧ t.trace = s.trace ++ acts ∧ t.resets = s.resets ∧
      t.cutShort = s.cutShort := by
  obtain ⟨hasserted, -⟩ | ⟨-, w, -, hexec⟩ | ⟨-, -, rfl⟩ := step_cases s t h
  · simp [hreset] at hasserted
  · obtain ⟨-, -, -, -, -, -, -, -, -, htrace, -, hresets, hcut⟩ := eachStoreHasItsOwnWriters _ _ t hexec
    exact ⟨[], Nat.zero_le 1, by rw [htrace, List.append_nil, takeWord_trace], hresets, hcut⟩
  · obtain ⟨-, hstill⟩ | ⟨x, q, -, hnext⟩ := sequencerStep_cases Config.baseDelay (passStep s)
    · rw [hstill]
      exact ⟨[], Nat.zero_le 1, (List.append_nil _).symm, rfl, rfl⟩
    · rw [hnext]
      exact ⟨[x], Nat.le_refl 1, rfl, rfl, rfl⟩

/-- R103: two states with the same latest reset, the later trace longer by some actions. -/
theorem observation_append (s t : State) (acts : List PinAction) (htrace : t.trace = s.trace ++ acts)
    (hresets : t.resets = s.resets) (hcut : t.cutShort = s.cutShort) : observation t = observe (observation s) acts := by
  rw [observation, observation, htrace, hresets, hcut, observe_append]

/-- Settles O51. -/
theorem stepExtendsTheObservation : Obligations.StepExtendsTheObservation := by
  intro s t hreset h
  obtain ⟨acts, hlen, htrace, hresets, hcut⟩ := step_emits s t hreset h
  exact ⟨acts, hlen, htrace, observation_append s t acts htrace hresets hcut, hresets, hcut⟩

/-! ### The records -/

/-- The records of `s` stand in `t` (10_state.md R34). -/
def recordsStand (s t : State) : Prop :=
  (s.stale = true → t.stale = true) ∧ (s.undef = true → t.undef = true) ∧
    ∀ (k : Fin 4) (x : Fin 64), s.ribWritten[k][x] = true → t.ribWritten[k][x] = true

theorem recordsStand_of_eq (s t : State) (hstale : t.stale = s.stale) (hundef : t.undef = s.undef)
    (hwritten : t.ribWritten = s.ribWritten) : recordsStand s t :=
  ⟨fun h => hstale.trans h, fun h => hundef.trans h, fun k x h => by rw [hwritten, h]⟩

/-- R109: a rule only adds to the records. -/
theorem acceptanceRule_recordsStand (i : Instr) (s : State) : recordsStand s (acceptanceRule i s) := by
  have hrender : ∀ a, recordsStand s (startSequence a s) := fun a => ⟨fun h => by simp [h], id, fun _ _ => id⟩
  have hsame : recordsStand s s := ⟨id, id, fun _ _ => id⟩
  cases i with
  | nop | reserved7 | reserved8f _ | wrdirty _ _ => exact hsame
  | wrpix slot col r g b => exact ⟨id, id, fun k x h => setCell_true_mono _ _ k _ x h⟩
  | clrrows => exact ⟨id, id, fun k x _ => by simp [acceptanceRule]⟩
  | pack => exact ⟨id, fun h => by simp [acceptanceRule, h], fun _ _ => id⟩
  | render a => exact hrender a
  | renderd a =>
    rw [acceptanceRule, startIfDirty_eq]
    split
    · exact hrender a
    · exact hsame

theorem step_recordsStand (s t : State) (hreset : resetAsserted s = false) (h : step s = .next t) : recordsStand s t := by
  obtain ⟨hasserted, -⟩ | ⟨-, w, -, hexec⟩ | ⟨-, -, rfl⟩ := step_cases s t h
  · simp [hreset] at hasserted
  · obtain rfl | ⟨-, rfl⟩ := exec_cases _ _ t hexec
    · exact recordsStand_of_eq s _ rfl rfl rfl
    · exact acceptanceRule_recordsStand _ (takeWord s)
  · obtain ⟨q, p, acts, hframe⟩ := sequencerStep_frame Config.baseDelay (passStep s)
    rw [hframe]
    exact recordsStand_of_eq s _ rfl rfl rfl

/-- Settles O20. -/
theorem recordsAreSticky : Obligations.RecordsAreSticky := by
  intro s t hreset h
  obtain ⟨hstale, hundef, hwritten⟩ := step_recordsStand s t hreset h
  obtain ⟨acts, -, htrace, -, -⟩ := step_emits s t hreset h
  exact ⟨hstale, hundef, hwritten, acts, htrace⟩

/-! ### What reads the row input buffer -/

/-- A state with RIB and its written bits replaced. -/
def withRows (R : Rib) (W : Grid Bool 4 64) (s : State) : State := { s with rib := R, ribWritten := W }

/-- R57, R130: a rule other than PACK's carries RIB to nothing but RIB. -/
theorem acceptanceRule_withRows (i : Instr) (hpack : i ≠ .pack) (R : Rib) (W : Grid Bool 4 64) (s : State) :
    ∃ R' W', acceptanceRule i (withRows R W s) = withRows R' W' (acceptanceRule i s) := by
  cases i with
  | pack => exact absurd rfl hpack
  | nop | reserved7 | reserved8f _ | wrdirty _ _ | render _ => exact ⟨R, W, rfl⟩
  | wrpix slot col r g b => exact ⟨_, _, rfl⟩
  | clrrows => exact ⟨_, _, rfl⟩
  | renderd a =>
    refine ⟨R, W, ?_⟩
    cases hdirty : addrDirty Config.pixelMap s.dirty (addrIndex a) with
    | true =>
      rw [acceptanceRule, startIfDirty_dirty _ a s hdirty, startIfDirty_dirty _ a (withRows R W s) hdirty]
      rfl
    | false => rw [acceptanceRule, startIfDirty_clean _ a s hdirty, startIfDirty_clean _ a (withRows R W s) hdirty]

/-- The sequencer does not see RIB. -/
theorem sequencerStep_withRows (B : Nat) (R : Rib) (W : Grid Bool 4 64) (s : State) :
    sequencerStep B (withRows R W s) = withRows R W (sequencerStep B s) := by
  obtain ⟨hidle, hstill⟩ | ⟨x, q, hrow, hnext⟩ := sequencerStep_cases B s
  · rw [hstill, sequencerStep_idle B (withRows R W s) hidle]
  · have hrow' : SequencerRow B (withRows R W s).ppb (withRows R W s).seq x q := hrow
    rw [hnext, sequencerStep_of_row hrow']
    rfl

/-- Settles O19: reset, the sequencer and every rule but PACK's carry RIB and its written bits to nothing else. -/
theorem ribIsReadOnlyByPack : Obligations.RibIsReadOnlyByPack := by
  intro s R W hnopack
  suffices hstep : ∃ t R' W', step s = .next t ∧ step (withRows R W s) = .next (withRows R' W' t) by
    obtain ⟨t, R', W', ht, ht'⟩ := hstep
    exact ⟨t, withRows R' W' t, ht, ht', rfl⟩
  cases hreset : resetAsserted s with
  | true => exact ⟨_, _, _, step_reset s hreset, step_reset (withRows R W s) hreset⟩
  | false =>
    cases hword : acceptedWord s with
    | none =>
      refine ⟨_, R, W, step_pass s hreset hword, ?_⟩
      rw [step_pass (withRows R W s) hreset hword, ← sequencerStep_withRows]
      rfl
    | some w =>
      obtain ⟨hidle, -⟩ := acceptedWord_some s w hword
      obtain ⟨R', W', hrule⟩ := acceptanceRule_withRows (decode w) (hnopack w hword) R W (takeWord s)
      refine ⟨_, R', W', (step_accept s w hreset hword).trans (exec_idle _ _ hidle), ?_⟩
      rw [step_accept (withRows R W s) w hreset hword, ← hrule]
      exact exec_idle _ (takeWord (withRows R W s)) hidle

end Sys2Proof.Machine
end

section
/-! The electrical output-enable pin (00_scope.md R16): O26. -/

namespace Sys2Proof.Machine

/-- Settles O26: the two polarities, and the default one at the reset level of oe. -/
theorem oePinFollowsItsPolarity : Obligations.OePinFollowsItsPolarity :=
  ⟨fun _ => ⟨rfl, rfl⟩, fun _ => rfl, rfl⟩

end Sys2Proof.Machine
end

section
/-! The invariant of a run (42_matrix_driver.md R87, R96, R99 to R101): O33, O32. -/

namespace Sys2Proof.Safety

open Sys2Proof.Machine

/-! ### At reset and at the acceptance of a command -/

/-- The invariant speaks of the registers, the pins and the trace only. -/
theorem runInv_congr (s t : State) (hseq : t.seq = s.seq) (hpins : t.pins = s.pins) (htrace : t.trace = s.trace)
    (hinv : runInv s) : runInv t := by
  simp only [runInv, seqInv, traceInv, pinsInv, hseq, hpins, htrace] at hinv ⊢
  exact hinv

/-- The registers, pins and trace that a reset leaves satisfy the invariant. -/
theorem runInv_reset : runInv State.reset :=
  ⟨⟨rfl, rfl, rfl, fun _ => rfl, rfl, fun _ => rfl, fun _ => rfl⟩, ⟨Monitor.start, rfl, rfl, trivial⟩, rfl⟩

/-- Loading the sequencer for an address from IDLE keeps the invariant. -/
theorem runInv_startSequence (a : ScanAddr) (s : State) (hidle : s.seq.phase = .idle) (hinv : runInv s) :
    runInv (startSequence a s) := by
  obtain ⟨⟨hclk, hlat, hoe, -, htimer, -, -⟩, ⟨m, hm, hmoe, -⟩, hpins⟩ := hinv
  rw [hidle] at hoe hmoe
  rw [hidle, if_neg (by decide)] at htimer
  exact ⟨⟨hclk, hlat, hoe, (fun h => nomatch h), htimer, fun _ => rfl, fun _ => rfl⟩, ⟨m, hm, hmoe, trivial⟩, hpins⟩

/-- What the acceptance of a command does to the registers: nothing, or it loads them for an address. -/
theorem exec_seq (i : Instr) (s t : State) (h : exec i s = .next t) :
    t.seq = s.seq ∨ ∃ a, s.seq.phase = .idle ∧ t = startSequence a s := by
  obtain rfl | ⟨hidle, rfl⟩ := exec_cases i s t h
  · exact .inl rfl
  · cases i with
    | render a => exact .inr ⟨a, hidle, rfl⟩
    | renderd a =>
      rw [acceptanceRule, startIfDirty_eq]
      split
      · exact .inr ⟨a, hidle, rfl⟩
      · exact .inl rfl
    | nop | wrpix _ _ _ _ _ | clrrows | pack | wrdirty _ _ | reserved7 | reserved8f _ => exact .inl rfl

theorem runInv_exec (i : Instr) (s t : State) (hinv : runInv s) (h : exec i s = .next t) : runInv t := by
  obtain hseq | ⟨a, hidle, rfl⟩ := exec_seq i s t h
  · obtain ⟨htrace, hpins⟩ := Prod.mk.inj (exec_keeps_outputs i s t h)
    exact runInv_congr s t hseq hpins htrace hinv
  · exact runInv_startSequence a s hidle hinv

/-! ### At a row of the sequencer's table -/

/-- An exposure lasts at least one delay unit. -/
theorem exposureDuration_pos (B : Nat) (hB : 1 ≤ B) (p : Fin 3) : 1 ≤ exposureDuration B p :=
  Nat.mul_pos hB (Nat.two_pow_pos p.val)

/-- Every row keeps the invariant of the pins and the registers. -/
theorem seqInv_row (B : Nat) (hB : 1 ≤ B) (s : State) (x : PinAction) (q : Seq)
    (hrow : SequencerRow B s.ppb s.seq x q) (hinv : seqInv B s) : seqInv B { emit x s with seq := q } := by
  obtain ⟨hclk, hlat, hoe, haddr, htimer, hcol, hplane⟩ := hinv
  cases hrow with
  | on hphase =>
    have hpos := exposureDuration_pos B hB s.seq.plane
    simp_all [seqInv, pinsAfter, litPhase, addressedPhase]
  | expose hphase hlong =>
    rw [if_pos hphase] at htimer
    have htimer' : 1 ≤ s.seq.timer - 1 ∧ s.seq.timer - 1 ≤ exposureDuration B s.seq.plane := by omega
    simp_all [seqInv, pinsAfter, litPhase, addressedPhase]
  | blankIn hphase | setRow hphase | latch hphase => simp_all [seqInv, pinsAfter, litPhase, addressedPhase]
  | shift hphase hcond | shiftLast hphase hcond => simp_all [seqInv, pinsAfter, litPhase, addressedPhase]
  | exposeLast hphase hcond | off hphase hcond | offLast hphase hcond =>
    simp_all [seqInv, pinsAfter, litPhase, addressedPhase]

/-- The monitor allows the action of every row, and stands afterwards as the next phase says: a SetRow starts its counts, a
Shift moves its count with seq.col, a Wait(1) moves its lit time against seq.timer. -/
theorem monitorFits_row (B : Nat) (s : State) (x : PinAction) (q : Seq) (hrow : SequencerRow B s.ppb s.seq x q)
    (hinv : seqInv B s) (m : Monitor) (hfits : monitorFits B s.seq m) :
    ∃ m', monitorAction B m x = some m' ∧ monitorFits B q m' := by
  obtain ⟨-, -, -, -, htimer, hcol, hplane⟩ := hinv
  obtain ⟨hmoe, hcounts⟩ := hfits
  cases hrow with
  | blankIn hphase =>
    rw [hphase] at hmoe
    exact ⟨_, (monitorAction_setOE_false B m _).mpr ⟨by simp [hmoe, litPhase], rfl⟩, rfl, trivial⟩
  | setRow hphase =>
    rw [hphase] at hmoe
    have hcol0 : s.seq.col = 0 := hcol (by simp [hphase])
    have hplane0 : s.seq.plane = 0 := hplane (by simp [hphase, addressedPhase])
    exact ⟨_, (monitorAction_setRow B m _ _).mpr ⟨hmoe, rfl⟩, hmoe, by simp [hcol0], by simp [hplane0]⟩
  | shift hphase hlt =>
    rw [hphase] at hmoe hcounts
    obtain ⟨hshifts, hlatches⟩ := hcounts
    have hnext := toNat_col_succ s.seq.col hlt
    refine ⟨_, (monitorAction_shift B m _ _).mpr ⟨hmoe, rfl⟩, ?_⟩
    simp only [monitorFits, hphase, hmoe, litPhase, hshifts, hlatches, hnext, and_self]
  | shiftLast hphase hlast =>
    rw [hphase] at hmoe hcounts
    obtain ⟨hshifts, hlatches⟩ := hcounts
    exact ⟨_, (monitorAction_shift B m _ _).mpr ⟨hmoe, rfl⟩, hmoe, by simp [hshifts, hlast], hlatches⟩
  | latch hphase =>
    rw [hphase] at hmoe hcounts
    obtain ⟨hshifts, hlatches⟩ := hcounts
    exact ⟨_, (monitorAction_pulseLatch B m _).mpr ⟨⟨hmoe, hshifts⟩, rfl⟩, hmoe, rfl, by simp [hlatches]⟩
  | on hphase =>
    rw [hphase] at hmoe hcounts
    obtain ⟨hshifts, hlatches⟩ := hcounts
    exact ⟨_, (monitorAction_setOE_true B m _).mpr ⟨hmoe, rfl⟩, rfl, hshifts, hlatches, Nat.zero_add _⟩
  | expose hphase hlong =>
    rw [hphase] at hmoe hcounts
    obtain ⟨hshifts, hlatches, hlit⟩ := hcounts
    refine ⟨_, (monitorAction_wait B m _ 1).mpr ⟨hmoe, rfl⟩, ?_⟩
    have hlit' : m.lit + 1 + (s.seq.timer - 1) = exposureDuration B s.seq.plane := by omega
    simp [monitorFits, hphase, hmoe, litPhase, hshifts, hlatches, hlit']
  | exposeLast hphase hlast =>
    rw [if_pos hphase] at htimer
    rw [hphase] at hmoe hcounts
    obtain ⟨hshifts, hlatches, hlit⟩ := hcounts
    exact ⟨_, (monitorAction_wait B m _ 1).mpr ⟨hmoe, rfl⟩, hmoe, hshifts, hlatches, by simp only; omega⟩
  | off hphase hlt =>
    rw [hphase] at hmoe hcounts
    obtain ⟨hshifts, hlatches, hlit⟩ := hcounts
    have hcol0 : s.seq.col = 0 := hcol (by simp [hphase])
    have hnext : (s.seq.plane + 1).val = s.seq.plane.val + 1 := by omega
    refine ⟨_, (monitorAction_setOE_false B m _).mpr ⟨fun _ => ?_, rfl⟩, rfl, by simp [hcol0, hshifts], ?_⟩
    · simp [hlit, hlatches, exposureDuration]
    · simp only [hlatches, hnext]
  | offLast hphase hlast =>
    rw [hphase] at hmoe hcounts
    obtain ⟨-, hlatches, hlit⟩ := hcounts
    refine ⟨_, (monitorAction_setOE_false B m _).mpr ⟨fun _ => ?_, rfl⟩, rfl, trivial⟩
    simp [hlit, hlatches, exposureDuration]

theorem runInv_row (s : State) (x : PinAction) (q : Seq) (hrow : SequencerRow Config.baseDelay s.ppb s.seq x q)
    (hinv : runInv s) : runInv { emit x s with seq := q } := by
  obtain ⟨hseq, ⟨m, hm, hfits⟩, hpins⟩ := hinv
  obtain ⟨m', hallowed, hfits'⟩ := monitorFits_row _ s x q hrow hseq m hfits
  refine ⟨seqInv_row _ (Nat.le_add_left 1 _) s x q hrow hseq, ⟨m', ?_, hfits'⟩, ?_⟩
  · rw [emit_trace, monitorTrace_concat, hm]
    exact hallowed
  · rw [pinsInv, emit_trace, List.foldl_append, ← hpins]
    rfl

/-! ### At every step -/

/-- Settles O33: the registers and pins at their reset values, and no action emitted. -/
theorem runInvariantHoldsAtReset : Obligations.RunInvariantHoldsAtReset := runInv_reset

/-- Settles O32: a step takes reset, accepts a command, stands still or takes a row of the sequencer's table, and each keeps
the invariant. -/
theorem everyStepKeepsTheRunInvariant : Obligations.EveryStepKeepsTheRunInvariant := by
  intro s t hinv hstep
  obtain ⟨-, rfl⟩ | ⟨-, w, -, hexec⟩ | ⟨-, -, rfl⟩ := step_cases s t hstep
  · exact runInv_congr State.reset (takeReset s) rfl rfl rfl runInv_reset
  · exact runInv_exec _ (takeWord s) t (runInv_congr s (takeWord s) rfl rfl rfl hinv) hexec
  · have hpass : runInv (passStep s) := runInv_congr s (passStep s) rfl rfl rfl hinv
    obtain ⟨-, hstill⟩ | ⟨x, q, hrow, hnext⟩ := sequencerStep_cases Config.baseDelay (passStep s)
    · rwa [hstill]
    · rw [hnext]
      exact runInv_row (passStep s) x q hrow hpass

end Sys2Proof.Safety
end

section
/-! The light and the duration of a sequence and of a frame (42_matrix_driver.md section 5, R102, R105;
70_reset_and_hazards.md R134): O36, O42, O44. -/

namespace Sys2Proof.Machine

/-! ### Lit time -/

theorem litUnits_planeShifts_append (oe : Bool) (P : Ppb) (p : Fin 3) (t : List PinAction) :
    litUnits oe (planeShifts P p ++ t) = litUnits oe t := by
  rw [planeShifts]
  induction List.finRange 128 with
  | nil => rfl
  | cons j js ih => rw [List.map_cons, List.cons_append, litUnits, ih]

/-- A run of `Wait(1)` lights a lit panel for its length. -/
theorem litUnits_replicate_wait_append (n : Nat) (t : List PinAction) :
    litUnits true (List.replicate n (.wait 1) ++ t) = n + litUnits true t := by
  induction n with
  | zero => rw [List.replicate_zero, List.nil_append, Nat.zero_add]
  | succ n ih =>
    rw [List.replicate_succ, List.cons_append, litUnits, ih, if_pos rfl]
    omega

/-- R89: a plane, from either output-enable, is lit for its exposure and ends blanked. -/
theorem litUnits_planeTrace_append (B : Nat) (P : Ppb) (p : Fin 3) (oe : Bool) (t : List PinAction) :
    litUnits oe (planeTrace B P p ++ t) = exposureDuration B p + litUnits false t := by
  rw [planeTrace, List.append_assoc, litUnits_planeShifts_append]
  simp [litUnits]

theorem litUnits_planeSteps_append (B : Nat) (P : Ppb) (p : Fin 3) (oe : Bool) (t : List PinAction) :
    litUnits oe (planeSteps B P p ++ t) = exposureDuration B p + litUnits false t := by
  simp only [planeSteps, List.append_assoc, litUnits_planeShifts_append]
  exact litUnits_replicate_wait_append _ _

/-- The three exposures together last seven units of BASE_DELAY. -/
theorem exposureDuration_sum (B : Nat) : exposureDuration B 0 + (exposureDuration B 1 + exposureDuration B 2) = 7 * B := by
  simp only [exposureDuration, Fin.val_zero, Fin.val_one, Fin.val_two]
  omega

/-- R102: a sequence, from either output-enable, is lit for seven units of BASE_DELAY and ends blanked. -/
theorem litUnits_renderTrace_append (B : Nat) (a : ScanAddr) (P : Ppb) (oe : Bool) (t : List PinAction) :
    litUnits oe (renderTrace B a P ++ t) = 7 * B + litUnits false t := by
  have hsum := exposureDuration_sum B
  simp only [renderTrace_eq, List.cons_append, List.append_assoc, litUnits, litUnits_planeTrace_append]
  omega

theorem litUnits_renderTrace (B : Nat) (a : ScanAddr) (P : Ppb) (oe : Bool) : litUnits oe (renderTrace B a P) = 7 * B := by
  simpa [litUnits] using litUnits_renderTrace_append B a P oe []

/-- The same of the sequencer's actions. -/
theorem litUnits_sequencerTrace (B : Nat) (a : ScanAddr) (P : Ppb) (oe : Bool) :
    litUnits oe (sequencerTrace B a P) = 7 * B := by
  have hlast : litUnits false (planeSteps B P 2) = exposureDuration B 2 := by
    simpa [litUnits] using litUnits_planeSteps_append B P 2 false []
  rw [sequencerTrace_eq, litUnits, litUnits, litUnits_planeSteps_append, litUnits_planeSteps_append, hlast,
    exposureDuration_sum]

/-- R105: one sequence after another, each lit for its seven units. -/
theorem litUnits_drives (B : Nat) (drives : List (ScanAddr × Ppb)) :
    litUnits false (drives.flatMap fun d => renderTrace B d.1 d.2) = drives.length * (7 * B) := by
  induction drives with
  | nil => simp [litUnits]
  | cons d ds ih =>
    rw [List.flatMap_cons, litUnits_renderTrace_append, ih, List.length_cons]
    ring

/-! ### Duration -/

theorem traceDuration_append (T : ActionKind → ℚ≥0) (t u : List PinAction) :
    traceDuration T (t ++ u) = traceDuration T t + traceDuration T u := by
  simp [traceDuration]

theorem traceDuration_cons (T : ActionKind → ℚ≥0) (x : PinAction) (t : List PinAction) :
    traceDuration T (x :: t) = actionDuration T x + traceDuration T t := by
  simp [traceDuration]

theorem traceDuration_nil (T : ActionKind → ℚ≥0) : traceDuration T [] = 0 := rfl

theorem traceDuration_planeShifts (T : ActionKind → ℚ≥0) (P : Ppb) (p : Fin 3) :
    traceDuration T (planeShifts P p) = 128 * T .shift := by
  have hmap : (planeShifts P p).map (actionDuration T) = List.replicate (List.finRange 128).length (T .shift) := by
    rw [planeShifts, List.map_map]
    exact List.map_const'
  rw [traceDuration, hmap, List.length_finRange, List.sum_replicate, nsmul_eq_mul]
  rfl

/-- A plane takes its exposure and T_ACTION of 128 Shifts, a PulseLatch and two SetOE. -/
theorem traceDuration_planeTrace (T : ActionKind → ℚ≥0) (B : Nat) (P : Ppb) (p : Fin 3) :
    traceDuration T (planeTrace B P p) =
      128 * T .shift + T .pulseLatch + 2 * T .setOE + (exposureDuration B p : ℚ≥0) := by
  rw [planeTrace, traceDuration_append, traceDuration_planeShifts]
  simp only [traceDuration_cons, traceDuration_nil, actionDuration]
  ring

/-- Settles O44: the three planes, the SetOE and the SetRow before them. -/
theorem renderSequenceDuration : Obligations.RenderSequenceDuration := by
  intro T B a P
  have hsum : ((exposureDuration B 0 + (exposureDuration B 1 + exposureDuration B 2) : Nat) : ℚ≥0) = 7 * B := by
    rw [exposureDuration_sum]
    push_cast
    rfl
  push_cast at hsum
  rw [renderTrace_eq, ← hsum]
  simp only [traceDuration_cons, traceDuration_append, traceDuration_planeTrace, actionDuration]
  ring

/-! ### A frame -/

/-- The drives of a frame, in the order of the addresses (42_matrix_driver.md R105). -/
def frameDrive (m : PixelMap) (img : Image) (a : Fin 16) : ScanAddr × Ppb :=
  (BitVec.ofFin a, packRows m (rowsForAddr m img (BitVec.ofFin a)))

theorem frameTrace_eq (B : Nat) (m : PixelMap) (img : Image) :
    frameTrace B m img = ((List.finRange 16).map (frameDrive m img)).flatMap fun d => renderTrace B d.1 d.2 := by
  rw [List.flatMap_map]
  rfl

theorem frameDrive_addr_ne (m : PixelMap) (img : Image) (a : Fin 16) (as : List (Fin 16)) (hnotin : a ∉ as) :
    ∀ e ∈ as.map (frameDrive m img), e.1 ≠ (frameDrive m img a).1 := by
  intro e he hsame
  obtain ⟨b, hb, rfl⟩ := List.mem_map.mp he
  obtain rfl : b = a := BitVec.ofFin.inj hsame
  exact hnotin hb

/-- R106: among drives of distinct addresses, each address gets the light of its own drive. -/
theorem observe_drives_exposure (B : Nat) (before after : List (ScanAddr × Ppb)) (d : ScanAddr × Ppb)
    (hbefore : ∀ e ∈ before, e.1 ≠ d.1) (hafter : ∀ e ∈ after, e.1 ≠ d.1) (o : Pins × Panel) (j : Fin 128) (sub : Fin 2)
    (c : Fin 3) :
    (observe o ((before ++ d :: after).flatMap fun d => renderTrace B d.1 d.2)).2.exposure d.1 j sub c =
      o.2.exposure d.1 j sub c + B * (unpackChannel d.2 j sub c).toNat := by
  obtain ⟨hdark, -⟩ := undrivenAddressGetsNoLight
  rw [List.flatMap_append, List.flatMap_cons, observe_append, observe_append, hdark B d.1 after _ j sub c hafter,
    observe_renderTrace_exposure, if_pos rfl, hdark B d.1 before o j sub c hbefore]

/-- R75: the rows a host loads for an address are the image's rows that the address shows. -/
theorem ribPixel_rowsForAddr (m : PixelMap) (img : Image) (a : Fin 16) (h sub : Fin 2) (x : Fin 64) :
    ribPixel m (rowsForAddr m img (BitVec.ofFin a)) (chainCol h x) sub = img[m.rowMap a h sub][m.colMap h x] := by
  rw [ribPixel_chainCol]
  simp [rowsForAddr, slotOf_div_two, slotOf_mod_two, addrIndex]

/-- Settles O42: the sixteen addresses are distinct, so each gets the light of its own drive only, and the map's rows and
columns reach every pixel. -/
theorem fullFrameShowsTheImage : Obligations.FullFrameShowsTheImage := by
  rintro B m img o ⟨⟨-, hrows⟩, hcols⟩
  refine ⟨fun a h sub x c => ?_, fun row col => ?_, ?_, fun a => litUnits_renderTrace _ _ _ _⟩
  · obtain ⟨before, after, hsplit⟩ := List.append_of_mem (List.mem_finRange a)
    have hnodup : (before ++ a :: after).Nodup := hsplit ▸ List.nodup_finRange 16
    obtain ⟨hnotin, -⟩ := List.nodup_cons.mp (List.nodup_middle.mp hnodup)
    rw [List.mem_append, not_or] at hnotin
    obtain ⟨hbefore, hafter⟩ := hnotin
    have hlight := observe_drives_exposure B (before.map (frameDrive m img)) (after.map (frameDrive m img))
      (frameDrive m img a) (frameDrive_addr_ne m img a before hbefore) (frameDrive_addr_ne m img a after hafter) o
      (chainCol h x) sub c
    rw [frameTrace_eq, hsplit, List.map_append, List.map_cons]
    refine hlight.trans ?_
    rw [frameDrive, unpackChannel_packRows, ribPixel_rowsForAddr]
  · obtain ⟨⟨a, h, sub⟩, hrow⟩ := hrows row
    obtain ⟨x, hcol⟩ := (hcols h).surjective col
    exact ⟨a, h, sub, x, hrow, hcol⟩
  · rw [frameTrace_eq, litUnits_drives, List.length_map, List.length_finRange]
    ring

end Sys2Proof.Machine
end

section
/-! What may happen while the panel is lit (42_matrix_driver.md R101): O36. -/

namespace Sys2Proof.Safety

open Sys2Proof.Machine

/-- R101: an action allowed while lit is a Wait or the ending SetOE(0). -/
theorem monitorAction_lit (B : Nat) (m m' : Monitor) (x : PinAction) (hlit : m.oe = true)
    (h : monitorAction B m x = some m') : x = .setOE false ∨ ∃ n, x = .wait n := by
  cases x with
  | wait n => exact .inr ⟨n, rfl⟩
  | setRow _ | shift _ | pulseLatch =>
    rw [monitorAction_blanked B m m' _ rfl h] at hlit
    cases hlit
  | setOE v =>
    cases v with
    | false => exact .inl rfl
    | true =>
      obtain ⟨hblanked, -⟩ := (monitorAction_setOE_true B m m').mp h
      rw [hblanked] at hlit
      cases hlit

/-- Settles O36: what the monitor allows while lit, and a count of the Waits plane by plane. -/
theorem litOnlyDuringExposures : Obligations.LitOnlyDuringExposures := by
  refine ⟨fun s before after x hinv htrace => ?_, fun B a P oe =>
    ⟨litUnits_renderTrace B a P oe, litUnits_sequencerTrace B a P oe⟩⟩
  obtain ⟨m₀, m₁, hm₀, hallowed⟩ := runInv_allows s before after x hinv htrace
  rw [← monitorTrace_oe _ before m₀ hm₀]
  refine ⟨fun hlit => monitorAction_lit _ m₀ m₁ x hlit hallowed, ?_⟩
  rintro hblanked n rfl
  obtain ⟨hlit, -⟩ := (monitorAction_wait _ m₀ m₁ n).mp hallowed
  rw [hblanked] at hlit
  cases hlit

end Sys2Proof.Safety
end

section
/-! The pseudo-instructions (30_encoding.md R69): O49. -/

namespace Sys2Proof.Machine

/-! ### SCAN and SCAND -/

theorem asmRender_toNat (a : BitVec 4) : asmRender a.toNat = some (.render a) := by
  rw [asmRender, if_pos (by omega), BitVec.ofNat_toNat, BitVec.setWidth_eq]

theorem asmRenderd_toNat (a : BitVec 4) : asmRenderd a.toNat = some (.renderd a) := by
  rw [asmRenderd, if_pos (by omega), BitVec.ofNat_toNat, BitVec.setWidth_eq]

theorem expand_scan (a : BitVec 4) : expand (.scan a.toNat) = some [.pack, .render a] := by
  rw [expand, asmRender_toNat, Option.map_some]

theorem expand_scand (a : BitVec 4) : expand (.scand a.toNat) = some [.pack, .renderd a] := by
  rw [expand, asmRenderd_toNat, Option.map_some]

/-! ### Assembling a list -/

/-- Commands that all assemble, assemble in a list. -/
theorem mapM_eq_some_map {α β : Type} (f : α → Option β) (g : α → β) (l : List α) (h : ∀ x ∈ l, f x = some (g x)) :
    l.mapM f = some (l.map g) := by
  induction l with
  | nil => rfl
  | cons x l ih =>
    rw [List.mapM_cons, h x List.mem_cons_self, ih fun y hy => h y (List.mem_cons_of_mem x hy)]
    rfl

/-! ### SETDIRTY -/

/-- The WRDIRTY of one quarter of a 64-bit operand. -/
theorem asmWrdirty_quarter (m : BitVec 64) (q : Nat) (hq : q ≤ 3) :
    asmWrdirty q (m.toNat / 2 ^ (16 * q) % 2 ^ 16) =
      some (.wrdirty (BitVec.ofNat 2 q) (m.extractLsb' (16 * q) 16)) := by
  have hrange : q ≤ 3 ∧ m.toNat / 2 ^ (16 * q) % 2 ^ 16 ≤ 0xFFFF := ⟨hq, by omega⟩
  have hvalue : BitVec.ofNat 16 (m.toNat / 2 ^ (16 * q) % 2 ^ 16) = m.extractLsb' (16 * q) 16 := by
    apply BitVec.eq_of_toNat_eq
    rw [BitVec.toNat_ofNat, BitVec.extractLsb'_toNat, Nat.shiftRight_eq_div_pow, Nat.mod_mod]
  rw [asmWrdirty, if_pos hrange, hvalue]

theorem expand_setdirty (m : BitVec 64) :
    expand (.setdirty m.toNat) =
      some [.wrdirty 0 (m.extractLsb' 0 16), .wrdirty 1 (m.extractLsb' 16 16), .wrdirty 2 (m.extractLsb' 32 16),
        .wrdirty 3 (m.extractLsb' 48 16)] := by
  rw [expand, asmSetdirty, if_pos m.isLt]
  have hrange : ∀ q ∈ [0, 1, 2, 3], q ≤ 3 := by decide
  exact mapM_eq_some_map _ (fun q => Instr.wrdirty (BitVec.ofNat 2 q) (m.extractLsb' (16 * q) 16)) _
    fun q hq => asmWrdirty_quarter m q (hrange q hq)

/-- Writing the quarters of `m` in turn: a bit is that of `m` from the moment its quarter is written. -/
theorem setQuarter_extract_bit (d m : BitVec 64) (q : BitVec 2) (i : Nat) (hi : i < 64) :
    (setQuarter d q (m.extractLsb' (16 * q.toNat) 16)).getLsbD i =
      if i / 16 = q.toNat then m.getLsbD i else d.getLsbD i := by
  rw [setQuarter_bit d q _ i hi]
  split
  · next hquarter =>
    have hpos : 16 * q.toNat + i % 16 = i := by omega
    have hlt : i % 16 < 16 := by omega
    rw [BitVec.getLsbD_extractLsb', hpos, decide_eq_true hlt, Bool.true_and]
  · rfl

/-- The WRDIRTYs of a 64-bit operand's four quarters, lowest first, as one write of DIRTY. -/
def writeQuarters (d m : BitVec 64) : BitVec 64 :=
  ([0, 1, 2, 3] : List (BitVec 2)).foldl (fun d q => setQuarter d q (m.extractLsb' (16 * q.toNat) 16)) d

/-- Every bit lies in one of the four quarters. -/
theorem writeQuarters_eq (d m : BitVec 64) : writeQuarters d m = m := by
  apply BitVec.eq_of_getLsbD_eq
  intro i hi
  simp only [writeQuarters, List.foldl_cons, List.foldl_nil, setQuarter_extract_bit _ m _ i hi]
  obtain hq | hq | hq | hq : i / 16 = 0 ∨ i / 16 = 1 ∨ i / 16 = 2 ∨ i / 16 = 3 := by omega
  all_goals simp [hq]

/-! ### LOADROW -/

/-- The pixel that an operand in range stands for. -/
def PixelOperand.pixel (p : PixelOperand) : Pixel := ⟨BitVec.ofNat 3 p.r, BitVec.ofNat 3 p.g, BitVec.ofNat 3 p.b⟩

/-- The WRPIX of one pixel of a LOADROW: its operand and its column. -/
def loadCommand (k : Fin 4) (q : PixelOperand × Nat) : Instr :=
  .wrpix (BitVec.ofFin k) (BitVec.ofNat 6 q.2) q.1.pixel.r q.1.pixel.g q.1.pixel.b

theorem asmWrpix_loadCommand (k : Fin 4) (q : PixelOperand × Nat) (hcol : q.2 < 64)
    (hrange : q.1.r ≤ 7 ∧ q.1.g ≤ 7 ∧ q.1.b ≤ 7) : asmWrpix k.val q.2 q.1.r q.1.g q.1.b = some (loadCommand k q) := by
  have hk : BitVec.ofNat 2 k.val = BitVec.ofFin k := BitVec.eq_of_toNat_eq (by simp)
  rw [asmWrpix, if_pos ⟨by omega, by omega, hrange⟩, hk]
  rfl

theorem expand_loadrow (k : Fin 4) (ps : List PixelOperand) (hlen : ps.length = 64)
    (hrange : ∀ p ∈ ps, p.r ≤ 7 ∧ p.g ≤ 7 ∧ p.b ≤ 7) :
    expand (.loadrow k.val ps) = some (ps.zipIdx.map (loadCommand k)) := by
  rw [expand, asmLoadrow, if_pos hlen]
  refine mapM_eq_some_map _ (loadCommand k) _ fun q hq => ?_
  obtain ⟨-, hcol, hp⟩ := List.mem_zipIdx hq
  exact asmWrpix_loadCommand k q (by omega) (hrange q.1 (hp ▸ List.getElem_mem _))

/-- The state after the WRPIXs of operands for the columns from `n` on. -/
def loadFrom (k : Fin 4) (ps : List PixelOperand) (n : Nat) (s : State) : State :=
  (ps.zipIdx n).foldl (fun t q => writeCell k (Fin.ofNat 64 q.2) q.1.pixel t) s

theorem loadFrom_cons (k : Fin 4) (p : PixelOperand) (ps : List PixelOperand) (n : Nat) (s : State) :
    loadFrom k (p :: ps) n s = loadFrom k ps (n + 1) (writeCell k (Fin.ofNat 64 n) p.pixel s) := by
  rw [loadFrom, List.zipIdx_cons, List.foldl_cons, loadFrom]

/-- The commands of a LOADROW write its cells. -/
theorem foldl_loadCommand (B : Nat) (m : PixelMap) (k : Fin 4) (ps : List PixelOperand) (s : State) :
    (ps.zipIdx.map (loadCommand k)).foldl (fun t i => commandTransition B m i t) s = loadFrom k ps 0 s := by
  rw [List.foldl_map]
  rfl

theorem loadFrom_frame (k : Fin 4) (ps : List PixelOperand) (n : Nat) (s : State) :
    loadFrom k ps n s = { s with rib := (loadFrom k ps n s).rib, ribWritten := (loadFrom k ps n s).ribWritten } := by
  induction ps generalizing n s with
  | nil => rfl
  | cons p ps ih =>
    rw [loadFrom_cons]
    exact ih (n + 1) _

/-- A cell outside the slot, or before the first column loaded, stays as it is. -/
theorem loadFrom_other (k k' : Fin 4) (x : Fin 64) (ps : List PixelOperand) (n : Nat) (s : State)
    (hfits : n + ps.length ≤ 64) (hother : ¬(k' = k ∧ n ≤ x.val)) :
    (loadFrom k ps n s).rib[k'][x] = s.rib[k'][x] ∧ (loadFrom k ps n s).ribWritten[k'][x] = s.ribWritten[k'][x] := by
  induction ps generalizing n s with
  | nil => exact ⟨rfl, rfl⟩
  | cons p ps ih =>
    rw [List.length_cons] at hfits
    have hne : ¬(k' = k ∧ x = Fin.ofNat 64 n) := by
      rintro ⟨hk, rfl⟩
      exact hother ⟨hk, by simp [Nat.mod_eq_of_lt (by omega : n < 64)]⟩
    obtain ⟨hrib, hwritten⟩ := ih (n + 1) (writeCell k (Fin.ofNat 64 n) p.pixel s) (by omega)
      fun ⟨hk, hx⟩ => hother ⟨hk, by omega⟩
    rw [loadFrom_cons, hrib, hwritten]
    exact ⟨setCell_other _ _ _ _ _ _ hne, setCell_other _ _ _ _ _ _ hne⟩

/-- A loaded cell holds its pixel and counts as written. -/
theorem loadFrom_loaded (k : Fin 4) (x : Fin 64) (p : PixelOperand) (ps : List PixelOperand) (n i : Nat) (s : State)
    (hfits : n + ps.length ≤ 64) (hi : ps[i]? = some p) (hx : x.val = n + i) :
    (loadFrom k ps n s).rib[k][x] = p.pixel ∧ (loadFrom k ps n s).ribWritten[k][x] = true := by
  induction ps generalizing n i s with
  | nil => simp at hi
  | cons p' ps ih =>
    rw [List.length_cons] at hfits
    rw [loadFrom_cons]
    cases i with
    | zero =>
      obtain rfl : p' = p := by simpa using hi
      obtain rfl : x = Fin.ofNat 64 n := Fin.ext (by simp; omega)
      obtain ⟨hrib, hwritten⟩ := loadFrom_other k k (Fin.ofNat 64 n) ps (n + 1) (writeCell k (Fin.ofNat 64 n) p'.pixel s)
        (by omega) (by omega)
      rw [hrib, hwritten]
      exact ⟨setCell_same _ _ _ _, setCell_same _ _ _ _⟩
    | succ i => exact ih (n + 1) i _ (by omega) (by simpa using hi) (by omega)

/-- Settles O49: the expansions, and what their WRDIRTYs and WRPIXs leave in DIRTY and in the slot. -/
theorem pseudoInstructionsDoTheirWork : Obligations.PseudoInstructionsDoTheirWork := by
  refine ⟨fun B pm m s => ⟨_, expand_setdirty m, rfl, ?_⟩, fun B pm k ps s hlen hrange =>
    ⟨_, loadFrom k ps 0 s, expand_loadrow k ps hlen hrange, ?_, (foldl_loadCommand B pm k ps s).symm, fun x p hp => ?_,
      fun k' x hk' => ?_, loadFrom_frame k ps 0 s⟩, fun a => ⟨expand_scan a, expand_scand a⟩⟩
  · have hdirty := writeQuarters_eq s.dirty m
    exact congrArg (fun d => ({ s with dirty := d } : State)) hdirty
  · rw [List.length_map, List.length_zipIdx, hlen]
  · have hcol : BitVec.ofNat 6 x.val = BitVec.ofFin x := BitVec.eq_of_toNat_eq (by simp)
    obtain ⟨hrib, hwritten⟩ := loadFrom_loaded k x p ps 0 x.val s (by omega) hp (Nat.zero_add _).symm
    refine ⟨?_, hrib, hwritten⟩
    rw [List.getElem?_map, List.getElem?_zipIdx, hp, Option.map_some, Option.map_some, loadCommand, Nat.zero_add, hcol]
    rfl
  · exact loadFrom_other k k' x ps 0 s (by omega) fun h => hk' h.1

end Sys2Proof.Machine
end

section
/-! SUPPORT. Runs of the sequencer (42_matrix_driver.md R96, R97): the rows it takes in turn, and the steps of the block that
take them while no reset is asserted. -/

namespace Sys2Proof.Safety

open Sys2Proof.Machine

/-! ### Rows in turn -/

/-- With BASE_DELAY `B` and planes `P`, the registers go through rows that emit a list of actions, one a row. -/
inductive SequencerRun (B : Nat) (P : Ppb) : Seq → List PinAction → Seq → Prop
  | nil (q : Seq) : SequencerRun B P q [] q
  | cons {q q' q'' : Seq} {x : PinAction} {acts : List PinAction} (hrow : SequencerRow B P q x q')
    (hrest : SequencerRun B P q' acts q'') : SequencerRun B P q (x :: acts) q''

theorem SequencerRun.single {B : Nat} {P : Ppb} {q q' : Seq} {x : PinAction} (hrow : SequencerRow B P q x q') :
    SequencerRun B P q [x] q' :=
  .cons hrow (.nil q')

theorem SequencerRun.append {B : Nat} {P : Ppb} {q q' q'' : Seq} {acts acts' : List PinAction}
    (hfirst : SequencerRun B P q acts q') (hsecond : SequencerRun B P q' acts' q'') :
    SequencerRun B P q (acts ++ acts') q'' := by
  induction hfirst with
  | nil => exact hsecond
  | cons hrow _ ih => exact .cons hrow (ih hsecond)

/-! ### The steps that take them -/

/-- The state after a run of the sequencer from `s` that emits `acts` and ends in `q`, a step for each action: the host's side
moves on, holding the word it presents. -/
def afterRun (s : State) (acts : List PinAction) (q : Seq) : State :=
  { s with
    seq := q
    pins := acts.foldl pinsAfter s.pins
    trace := s.trace ++ acts
    port := portWaited^[acts.length] s.port }

theorem afterRun_cons (s : State) (x : PinAction) (acts : List PinAction) (q q' : Seq) :
    afterRun s (x :: acts) q' = afterRun { emit x (passStep s) with seq := q } acts q' := by
  simp only [afterRun, emit, passStep, List.append_assoc, List.singleton_append]
  rfl

theorem resetAsserted_of_noResetFor (n : Nat) (s : State) (hno : noResetFor (n + 1) s) : resetAsserted s = false := by
  have hfirst := hno 0 (Nat.succ_pos n)
  rw [resetAsserted]
  cases hresets : s.port.resets with
  | nil => rfl
  | cons r rs => rwa [hresets] at hfirst

/-- With no reset for one more step, there is none for the rest after a step of the host's side. -/
theorem noResetFor_tail (n : Nat) (s t : State) (hno : noResetFor (n + 1) s)
    (htail : t.port.resets = s.port.resets.tail) : noResetFor n t := by
  intro k hk
  have hlater := hno (k + 1) (Nat.succ_lt_succ hk)
  rwa [List.getD_eq_getElem?_getD, htail, List.getElem?_tail, ← List.getD_eq_getElem?_getD]

theorem noResetFor_mono (m n : Nat) (s : State) (hmn : m ≤ n) (hno : noResetFor n s) : noResetFor m s :=
  fun k hk => hno k (hk.trans_le hmn)

/-- R97: while the sequencer runs and no reset is asserted, each step takes one row. -/
theorem step_row (s : State) (x : PinAction) (q : Seq) (hreset : resetAsserted s = false)
    (hrow : SequencerRow Config.baseDelay s.ppb s.seq x q) : step s = .next { emit x (passStep s) with seq := q } := by
  have hrow' : SequencerRow Config.baseDelay (passStep s).ppb (passStep s).seq x q := hrow
  rw [step_busy s hreset hrow.busy, sequencerStep_of_row hrow']

/-- A run of the sequencer is a run of the block. -/
theorem runSteps_of_sequencerRun (P : Ppb) (q q' : Seq) (acts : List PinAction)
    (hrun : SequencerRun Config.baseDelay P q acts q') (s : State) (hppb : s.ppb = P) (hseq : s.seq = q)
    (hno : noResetFor acts.length s) : runSteps acts.length s = .next (afterRun s acts q') := by
  induction hrun generalizing s with
  | nil =>
    subst hseq
    simp [runSteps_zero, afterRun]
  | @cons q₀ q₁ q₂ x acts hrow hrest ih =>
    subst hseq hppb
    have hreset := resetAsserted_of_noResetFor acts.length s hno
    rw [List.length_cons, runSteps_succ _ _ _ (step_row s x q₁ hreset hrow), afterRun_cons]
    exact ih _ rfl rfl (noResetFor_tail _ s _ hno rfl)

/-- Before its last step a run of the sequencer is never ready. -/
theorem not_ready_during_sequencerRun (P : Ppb) (q q' : Seq) (acts : List PinAction)
    (hrun : SequencerRun Config.baseDelay P q acts q') (s : State) (hppb : s.ppb = P) (hseq : s.seq = q)
    (hno : noResetFor acts.length s) (k : Nat) (hk : k < acts.length) (u : State) (hu : runSteps k s = .next u) :
    u.ready = false := by
  induction hrun generalizing s k with
  | nil => exact absurd hk (Nat.not_lt_zero k)
  | @cons q₀ q₁ q₂ x acts hrow hrest ih =>
    subst hseq hppb
    cases k with
    | zero =>
      obtain rfl : s = u := by injection hu
      rw [← Bool.not_eq_true, ready_iff]
      exact hrow.busy
    | succ k =>
      have hreset := resetAsserted_of_noResetFor acts.length s hno
      rw [runSteps_succ _ _ _ (step_row s x q₁ hreset hrow)] at hu
      exact ih { emit x (passStep s) with seq := q₁ } rfl rfl (noResetFor_tail _ s _ hno rfl) k
        (Nat.lt_of_succ_lt_succ hk) hu

/-! ### The run of one plane and of one sequence -/

/-- R91: the Shifts of a plane from column `c` on. -/
theorem planeShifts_drop (P : Ppb) (p : Fin 3) (c : BitVec 7) :
    (planeShifts P p).drop c.toNat = .shift (ppbData P p (chainIndex c)) :: (planeShifts P p).drop (c.toNat + 1) := by
  have hc : c.toNat < (planeShifts P p).length := by rw [planeShifts_length]; exact c.isLt
  rw [List.drop_eq_getElem_cons hc]
  congr 1
  simp [planeShifts, chainIndex]

/-- In SHIFT the sequencer emits the Shifts from seq.col on, then goes to LATCH. -/
theorem sequencerRun_shifts (B : Nat) (P : Ppb) (left : Nat) (q : Seq) (hphase : q.phase = .shift)
    (hleft : q.col.toNat + left = 127) :
    SequencerRun B P q ((planeShifts P q.plane).drop q.col.toNat) { q with col := 0, phase := .latch } := by
  induction left generalizing q with
  | zero =>
    have hend : (planeShifts P q.plane).drop (q.col.toNat + 1) = [] :=
      List.drop_eq_nil_of_le (by rw [planeShifts_length]; omega)
    rw [planeShifts_drop, hend]
    exact .single (.shiftLast hphase hleft)
  | succ left ih =>
    have hnext := toNat_col_succ q.col (by omega)
    have hrest := ih { q with col := q.col + 1 } hphase (by simp only [hnext]; omega)
    rw [planeShifts_drop]
    simp only [hnext] at hrest
    exact .cons (.shift hphase (by omega)) hrest

/-- In EXPOSE the sequencer emits one Wait(1) per unit of seq.timer, then goes to OFF. -/
theorem sequencerRun_exposure (B : Nat) (P : Ppb) (n : Nat) (q : Seq) (hphase : q.phase = .expose)
    (htimer : q.timer = n + 1) :
    SequencerRun B P q (List.replicate (n + 1) (.wait 1)) { q with timer := 0, phase := .off } := by
  induction n generalizing q with
  | zero => exact .single (.exposeLast hphase htimer.le)
  | succ n ih =>
    exact .cons (.expose hphase (by omega)) (ih { q with timer := q.timer - 1 } hphase (by simp only; omega))

/-- From the first column of a plane the sequencer emits the plane's actions up to the SetOE(0) that ends its exposure. -/
theorem sequencerRun_plane (B : Nat) (hB : 1 ≤ B) (P : Ppb) (a : ScanAddr) (p : Fin 3) (timer : Nat) :
    SequencerRun B P ⟨.shift, a, p, 0, timer⟩
      (planeShifts P p ++ [.pulseLatch, .setOE true] ++ List.replicate (exposureDuration B p) (.wait 1))
      ⟨.off, a, p, 0, 0⟩ := by
  obtain ⟨n, hn⟩ := Nat.exists_eq_add_one.mpr (exposureDuration_pos B hB p)
  have hshifts : SequencerRun B P ⟨.shift, a, p, 0, timer⟩ (planeShifts P p) ⟨.latch, a, p, 0, timer⟩ :=
    sequencerRun_shifts B P 127 ⟨.shift, a, p, 0, timer⟩ rfl rfl
  have hlatch : SequencerRun B P ⟨.latch, a, p, 0, timer⟩ [.pulseLatch, .setOE true]
      ⟨.expose, a, p, 0, exposureDuration B p⟩ := .cons (.latch rfl) (.single (.on rfl))
  have hexposure := sequencerRun_exposure B P n ⟨.expose, a, p, 0, exposureDuration B p⟩ rfl hn
  rw [← hn] at hexposure
  exact (hshifts.append hlatch).append hexposure

/-- A plane before the last leads to the first column of the next. -/
theorem sequencerRun_planeSteps (B : Nat) (hB : 1 ≤ B) (P : Ppb) (a : ScanAddr) (p : Fin 3) (timer : Nat)
    (hp : p.val < 2) : SequencerRun B P ⟨.shift, a, p, 0, timer⟩ (planeSteps B P p) ⟨.shift, a, p + 1, 0, 0⟩ :=
  (sequencerRun_plane B hB P a p timer).append (.single (.off rfl hp))

/-- R96: from BLANK_IN the sequencer emits the whole sequence of its address and ends in IDLE. -/
theorem sequencerRun_sequence (B : Nat) (hB : 1 ≤ B) (P : Ppb) (a : ScanAddr) (timer : Nat) :
    SequencerRun B P ⟨.blankIn, a, 0, 0, timer⟩ (sequencerTrace B a P) ⟨.idle, a, 0, 0, 0⟩ := by
  have hlast : SequencerRun B P ⟨.shift, a, 2, 0, 0⟩ (planeSteps B P 2) ⟨.idle, a, 0, 0, 0⟩ :=
    (sequencerRun_plane B hB P a 2 0).append (.single (.offLast rfl rfl))
  have hplanes := (sequencerRun_planeSteps B hB P a 0 timer (by decide)).append
    ((sequencerRun_planeSteps B hB P a 1 0 (by decide)).append hlast)
  rw [sequencerTrace_eq]
  exact .cons (.blankIn rfl) (.cons (.setRow rfl) hplanes)

theorem planeSteps_length (B : Nat) (P : Ppb) (p : Fin 3) : (planeSteps B P p).length = 131 + exposureDuration B p := by
  simp only [planeSteps, List.length_append, planeShifts_length, List.length_replicate, List.length_cons, List.length_nil]
  omega

/-- R96: a sequence takes 395 + 7·BASE_DELAY steps. -/
theorem sequencerTrace_length (B : Nat) (a : ScanAddr) (P : Ppb) : (sequencerTrace B a P).length = sequenceSteps B := by
  have hsum := exposureDuration_sum B
  simp only [sequencerTrace_eq, List.length_cons, List.length_append, planeSteps_length, sequenceSteps]
  omega

/-! ### From any phase to IDLE -/

/-- The steps of the planes after `p`. -/
def planesAfter (B : Nat) (p : Fin 3) : Nat := 131 * (2 - p.val) + B * (8 - 2 ^ (p.val + 1))

/-- A bound on the steps the sequencer still has to take (42_matrix_driver.md R97). -/
def stepsLeft (B : Nat) (q : Seq) : Nat :=
  match q.phase with
  | .idle => 0
  | .blankIn => 133 + exposureDuration B q.plane + planesAfter B q.plane
  | .setRow => 132 + exposureDuration B q.plane + planesAfter B q.plane
  | .shift => 131 - q.col.toNat + exposureDuration B q.plane + planesAfter B q.plane
  | .latch => 3 + exposureDuration B q.plane + planesAfter B q.plane
  | .on => 2 + exposureDuration B q.plane + planesAfter B q.plane
  | .expose => 1 + max q.timer 1 + planesAfter B q.plane
  | .off => 1 + planesAfter B q.plane

/-- The planes after `p` are the next one and those after it. -/
theorem planesAfter_next (B : Nat) (p : Fin 3) (hp : p.val < 2) :
    planesAfter B p = 131 + exposureDuration B (p + 1) + planesAfter B (p + 1) := by
  obtain rfl | rfl : p = 0 ∨ p = 1 := by omega
  · simp only [planesAfter, exposureDuration, Fin.val_zero, Fin.val_one, zero_add]
    omega
  · simp [planesAfter, exposureDuration]

/-- Every row brings the end nearer. -/
theorem stepsLeft_row (B : Nat) (hB : 1 ≤ B) (P : Ppb) (q q' : Seq) (x : PinAction) (hrow : SequencerRow B P q x q') :
    stepsLeft B q' < stepsLeft B q := by
  cases hrow with
  | blankIn hphase | setRow hphase | latch hphase => simp only [stepsLeft, hphase]; omega
  | shift hphase hcol =>
    have hnext := toNat_col_succ q.col hcol
    simp only [stepsLeft, hphase, hnext]
    omega
  | shiftLast hphase hcol => simp only [stepsLeft, hphase, hcol]; omega
  | on hphase =>
    have hpos := exposureDuration_pos B hB q.plane
    simp only [stepsLeft, hphase]
    omega
  | expose hphase htimer | exposeLast hphase htimer => simp only [stepsLeft, hphase]; omega
  | off hphase hplane =>
    have hafter := planesAfter_next B q.plane hplane
    simp only [stepsLeft, hphase]
    omega
  | offLast hphase hplane => simp only [stepsLeft, hphase]; omega

/-- R97: from any registers the sequencer comes to IDLE. -/
theorem exists_sequencerRun_idle (B : Nat) (hB : 1 ≤ B) (P : Ppb) (q : Seq) :
    ∃ acts q', SequencerRun B P q acts q' ∧ q'.phase = .idle ∧ acts.length ≤ stepsLeft B q := by
  induction hleft : stepsLeft B q using Nat.strong_induction_on generalizing q with
  | _ n ih =>
    subst hleft
    by_cases hidle : q.phase = .idle
    · exact ⟨[], q, .nil q, hidle, Nat.zero_le _⟩
    · obtain ⟨x, q₁, hrow⟩ := exists_sequencerRow B P q hidle
      have hnearer := stepsLeft_row B hB P q q₁ x hrow
      obtain ⟨acts, q', hrest, hidle', hlen⟩ := ih _ hnearer q₁ rfl
      exact ⟨x :: acts, q', .cons hrow hrest, hidle', hlen.trans_lt hnearer⟩

/-- A plane's exposure and the planes after it are within the three planes of a sequence. -/
theorem exposure_planesAfter_le (B : Nat) (p : Fin 3) : exposureDuration B p + planesAfter B p ≤ 262 + 7 * B := by
  obtain rfl | rfl | rfl : p = 0 ∨ p = 1 ∨ p = 2 := by omega
  all_goals simp only [planesAfter, exposureDuration, Fin.val_zero, Fin.val_one, Fin.val_two]; omega

/-- A whole sequence is the longest there is to wait. -/
theorem stepsLeft_le (B : Nat) (hB : 1 ≤ B) (s : State) (hinv : seqInv B s) : stepsLeft B s.seq ≤ sequenceSteps B := by
  obtain ⟨-, -, -, -, htimer, -, -⟩ := hinv
  have hplanes := exposure_planesAfter_le B s.seq.plane
  have hpos := exposureDuration_pos B hB s.seq.plane
  cases hphase : s.seq.phase with
  | idle | blankIn | setRow | shift | latch | on | off =>
    simp only [stepsLeft, hphase, sequenceSteps]
    omega
  | expose =>
    rw [if_pos hphase] at htimer
    simp only [stepsLeft, hphase, sequenceSteps]
    omega

end Sys2Proof.Safety
end

section
/-! The sequence runs to its end, and a held word is accepted then (42_matrix_driver.md R96, R97, R98; 30_encoding.md R59):
O28, O29. -/

namespace Sys2Proof.Safety

open Sys2Proof.Machine

/-- BASE_DELAY is at least 1 (00_scope.md R14). -/
theorem baseDelay_pos : 1 ≤ Config.baseDelay := Nat.le_add_left 1 _

/-! ### The end of a sequence -/

/-- Merging Waits keeps the pins. -/
theorem pinsAfter_mergeWaits (t : List PinAction) (p : Pins) :
    (mergeWaits t).foldl pinsAfter p = t.foldl pinsAfter p := by
  have hobserve := congrArg Prod.fst (observe_mergeWaits (p, panelReset false 0) t)
  rwa [observe_pins, observe_pins] at hobserve

/-- The pins that a sequence leaves (42_matrix_driver.md R98). -/
def endPins (a : ScanAddr) (P : Ppb) : Pins :=
  { row := a, data := ppbData P 2 127, clk := false, lat := false, oe := false }

theorem pinsAfter_renderTrace (B : Nat) (a : ScanAddr) (P : Ppb) (p : Pins) :
    (renderTrace B a P).foldl pinsAfter p = endPins a P := by
  obtain ⟨-, hpins⟩ := renderTraceEndPins
  exact hpins B a P p

theorem pinsAfter_sequencerTrace (B : Nat) (hB : 1 ≤ B) (a : ScanAddr) (P : Ppb) (p : Pins) :
    (sequencerTrace B a P).foldl pinsAfter p = endPins a P := by
  obtain ⟨-, -, hmerge⟩ := mergedWaitsAreTheSameObservation
  rw [← pinsAfter_mergeWaits, hmerge B a P hB, pinsAfter_renderTrace]

/-- The state in which the sequence of `s` ends: the trace and the pins of its address from the planes of `s`, IDLE. -/
def sequenceEnd (s : State) : State :=
  afterRun s (sequencerTrace Config.baseDelay s.seq.addr s.ppb) ⟨.idle, s.seq.addr, 0, 0, 0⟩

theorem sequenceEnd_eq (s : State) :
    sequenceEnd s =
      { s with
        seq := ⟨.idle, s.seq.addr, 0, 0, 0⟩
        pins := endPins s.seq.addr s.ppb
        trace := s.trace ++ sequencerTrace Config.baseDelay s.seq.addr s.ppb
        port := (sequenceEnd s).port } := by
  rw [← pinsAfter_sequencerTrace Config.baseDelay baseDelay_pos s.seq.addr s.ppb s.pins]
  rfl

/-- The run of the whole sequence, from BLANK_IN. -/
theorem sequencerRun_of_blankIn (s : State) (hphase : s.seq.phase = .blankIn) (hplane : s.seq.plane = 0)
    (hcol : s.seq.col = 0) :
    SequencerRun Config.baseDelay s.ppb s.seq (sequencerTrace Config.baseDelay s.seq.addr s.ppb)
      ⟨.idle, s.seq.addr, 0, 0, 0⟩ := by
  have hseq : s.seq = ⟨.blankIn, s.seq.addr, 0, 0, s.seq.timer⟩ := by rw [← hphase, ← hplane, ← hcol]
  have hrun := sequencerRun_sequence Config.baseDelay baseDelay_pos s.ppb s.seq.addr s.seq.timer
  rwa [← hseq] at hrun

/-- R97: from BLANK_IN, `sequenceSteps` steps without reset take the block to the end of its sequence. -/
theorem runSteps_sequence (s : State) (hphase : s.seq.phase = .blankIn) (hplane : s.seq.plane = 0)
    (hcol : s.seq.col = 0) (hno : noResetFor (sequenceSteps Config.baseDelay) s) :
    runSteps (sequenceSteps Config.baseDelay) s = .next (sequenceEnd s) := by
  have hrun := sequencerRun_of_blankIn s hphase hplane hcol
  rw [← sequencerTrace_length Config.baseDelay s.seq.addr s.ppb] at hno ⊢
  exact runSteps_of_sequencerRun s.ppb s.seq _ _ hrun s rfl rfl hno

/-- Settles O28: the run of the sequence's rows, each of which finds the block busy. -/
theorem sequenceRunsToItsEnd : Obligations.SequenceRunsToItsEnd := by
  intro s hphase hplane hcol hno
  refine ⟨⟨sequenceEnd s, runSteps_sequence s hphase hplane hcol hno, sequenceEnd_eq s⟩, fun k hk u hu => ?_⟩
  have hrun := sequencerRun_of_blankIn s hphase hplane hcol
  have hlen := sequencerTrace_length Config.baseDelay s.seq.addr s.ppb
  exact not_ready_during_sequencerRun s.ppb s.seq _ _ hrun s rfl rfl (hlen ▸ hno) k (hlen ▸ hk) u hu

/-! ### The host's side through a run -/

/-- R59: a presented word is held, step after step. -/
theorem iterate_portWaited_words (n : Nat) (p : HostPort) (w : Word) (ws : List (Option Word))
    (hport : p.words = some w :: ws) : (portWaited^[n] p).words = some w :: ws := by
  induction n generalizing p with
  | zero => exact hport
  | succ n ih =>
    rw [Function.iterate_succ_apply]
    exact ih _ (by rw [portWaited, hport])

theorem iterate_portWaited_resets (n : Nat) (p : HostPort) : (portWaited^[n] p).resets = p.resets.drop n := by
  induction n generalizing p with
  | zero => rfl
  | succ n ih =>
    rw [Function.iterate_succ_apply, ih]
    exact List.drop_tail

/-- With no reset for longer than a run lasts, the step after it is unreset. -/
theorem resetAsserted_afterRun (s : State) (acts : List PinAction) (q : Seq) (n : Nat) (hlen : acts.length < n)
    (hno : noResetFor n s) : resetAsserted (afterRun s acts q) = false := by
  have hlevel := hno acts.length hlen
  rw [List.getD_eq_getElem?_getD] at hlevel
  rwa [resetAsserted, afterRun, iterate_portWaited_resets, List.headD_eq_head?_getD, List.head?_drop]

/-- Settles O29: from any phase the sequencer comes to IDLE within the bound (`stepsLeft`), and the word is held meanwhile. -/
theorem heldWordIsAcceptedInTime : Obligations.HeldWordIsAcceptedInTime := by
  intro s w ws hinv hport hno
  obtain ⟨acts, q, hrun, hidle, hlen⟩ := exists_sequencerRun_idle Config.baseDelay baseDelay_pos s.ppb s.seq
  have hbound : acts.length ≤ sequenceSteps Config.baseDelay :=
    hlen.trans (stepsLeft_le Config.baseDelay baseDelay_pos s hinv)
  have hheld : (afterRun s acts q).port.words = some w :: ws := iterate_portWaited_words _ _ w ws hport
  have hreset := resetAsserted_afterRun s acts q _ (Nat.lt_succ_of_le hbound) hno
  exact ⟨acts.length, hbound, afterRun s acts q,
    runSteps_of_sequencerRun s.ppb s.seq q acts hrun s rfl rfl (noResetFor_mono _ _ s (hbound.trans (Nat.le_succ _)) hno),
    (ready_iff _).mpr hidle, hheld, step_presented _ w ws hreset hidle hheld⟩

end Sys2Proof.Safety
end

section
/-! The two levels agree, and SCAN shows the rows (00_scope.md R7, 42_matrix_driver.md R88, R104): O30, O41. -/

namespace Sys2Proof.Safety

open Sys2Proof.Machine

/-! ### One command, then its sequence if it starts one -/

/-- The state that has taken the word before `ws`. -/
def tookWord (ws : List (Option Word)) (s : State) : State :=
  { s with port := { words := ws, resets := s.port.resets.tail } }

/-- R59: the step of a ready block with the word of a well-formed command presented runs the command's rule. -/
theorem step_command (i : Instr) (hwf : i.wf = true) (s : State) (ws : List (Option Word))
    (hreset : resetAsserted s = false) (hidle : s.seq.phase = .idle) (hport : s.port.words = some (encode i) :: ws) :
    step s = .next (acceptanceRule i (tookWord ws s)) := by
  rw [step_presented s _ ws hreset hidle hport, decode_encode i hwf]
  exact exec_idle i (tookWord ws s) hidle

/-- A ready block whose next step starts a sequence is at its end `sequenceSteps + 1` steps later. -/
theorem runSteps_render (a : ScanAddr) (s u : State) (hstep : step s = .next (startSequence a u))
    (htail : u.port.resets = s.port.resets.tail) (hno : noResetFor (sequenceSteps Config.baseDelay + 1) s) :
    runSteps (sequenceSteps Config.baseDelay + 1) s = .next (sequenceEnd (startSequence a u)) := by
  rw [runSteps_succ _ s _ hstep]
  exact runSteps_sequence (startSequence a u) rfl rfl rfl (noResetFor_tail _ s _ hno htail)

/-- The registers of a ready block: all but the address at 0 (10_state.md R21, R28). -/
theorem seq_of_idle (B : Nat) (s : State) (hidle : s.seq.phase = .idle) (hinv : seqInv B s) :
    s.seq = ⟨.idle, s.seq.addr, 0, 0, 0⟩ := by
  obtain ⟨-, -, -, -, htimer, hcol, hplane⟩ := hinv
  rw [if_neg (by rw [hidle]; decide)] at htimer
  rw [← hidle, ← htimer, ← hcol (by rw [hidle]; decide), ← hplane (by rw [hidle]; rfl)]

/-- R93: what RENDER at the command level leaves, from a ready block. -/
theorem commandRender_of_idle (B : Nat) (a : ScanAddr) (s : State) (hidle : s.seq.phase = .idle) (hinv : seqInv B s) :
    commandRender B a s =
      { startSequence a s with
        seq := ⟨.idle, a, 0, 0, 0⟩
        pins := endPins a s.ppb
        trace := s.trace ++ renderTrace B a s.ppb } := by
  have hseq : ({ s.seq with addr := a } : Seq) = ⟨.idle, a, 0, 0, 0⟩ := by rw [seq_of_idle B s hidle hinv]
  rw [commandRender, emitAll_eq, ← hseq, ← pinsAfter_renderTrace B a s.ppb s.pins]
  rfl

/-- R93: RENDER at the command level is the end of its sequence, with the adjacent Waits of what it emitted merged and the
host's side put back. -/
theorem sequenceEnd_merged (a : ScanAddr) (s : State) (ws : List (Option Word)) (hidle : s.seq.phase = .idle)
    (hinv : seqInv Config.baseDelay s) :
    ({ sequenceEnd (startSequence a (tookWord ws s)) with
        trace := s.trace ++ mergeWaits (sequencerTrace Config.baseDelay a s.ppb), port := s.port } : State) =
      commandRender Config.baseDelay a s := by
  obtain ⟨-, -, hmerge⟩ := mergedWaitsAreTheSameObservation
  rw [commandRender_of_idle _ a s hidle hinv, sequenceEnd_eq, hmerge _ a s.ppb baseDelay_pos]
  rfl

/-- The two levels agree on a command from `s` (00_scope.md R7): within the bound of one acceptance and one sequence the block is
ready, and once the adjacent Waits of what it emitted are merged its state is the one of the command's transition. -/
def meetsCommandLevel (i : Instr) (s : State) : Prop :=
  ∃ n t acts, 1 ≤ n ∧ n ≤ sequenceSteps Config.baseDelay + 1 ∧
    runSteps n s = .next t ∧ t.ready = true ∧ t.trace = s.trace ++ acts ∧
    ({ t with trace := s.trace ++ mergeWaits acts, port := s.port } : State) =
      commandTransition Config.baseDelay Config.pixelMap i s

/-- A command that completes at acceptance. -/
theorem meetsCommandLevel_of_complete (i : Instr) (s t : State) (hstep : step s = .next t) (hidle : t.seq.phase = .idle)
    (htrace : t.trace = s.trace)
    (hlevel : ({ t with port := s.port } : State) = commandTransition Config.baseDelay Config.pixelMap i s) :
    meetsCommandLevel i s := by
  refine ⟨1, t, [], Nat.le_refl 1, Nat.le_add_left 1 _, ?_, (ready_iff t).mpr hidle, ?_, ?_⟩
  · rw [runSteps_succ 0 s t hstep, runSteps_zero]
  · rw [htrace, List.append_nil]
  · rw [← hlevel, ← htrace]
    simp [mergeWaits]

/-- A command that starts a sequence. -/
theorem meetsCommandLevel_of_render (i : Instr) (a : ScanAddr) (s : State) (ws : List (Option Word))
    (hstep : step s = .next (startSequence a (tookWord ws s))) (hidle : s.seq.phase = .idle)
    (hinv : seqInv Config.baseDelay s) (hno : noResetFor (sequenceSteps Config.baseDelay + 1) s)
    (hlevel : commandRender Config.baseDelay a s = commandTransition Config.baseDelay Config.pixelMap i s) :
    meetsCommandLevel i s :=
  ⟨_, sequenceEnd (startSequence a (tookWord ws s)), _, Nat.le_add_left 1 _, Nat.le_refl _,
    runSteps_render a s (tookWord ws s) hstep rfl hno, rfl, rfl, (sequenceEnd_merged a s ws hidle hinv).trans hlevel⟩

/-- Settles O30: every rule but RENDER's is the command's whole transition; RENDER's is followed by its sequence. -/
theorem actionLevelMeetsCommandLevel : Obligations.ActionLevelMeetsCommandLevel := by
  intro i s ws hwf hidle hinv hport hno
  have hstep := step_command i hwf s ws (resetAsserted_of_noResetFor _ s hno) hidle hport
  cases i with
  | nop | wrpix _ _ _ _ _ | clrrows | pack | wrdirty _ _ | reserved7 | reserved8f _ =>
    exact meetsCommandLevel_of_complete _ s _ hstep hidle rfl rfl
  | render a => exact meetsCommandLevel_of_render _ a s ws hstep hidle hinv hno rfl
  | renderd a =>
    cases hdirty : addrDirty Config.pixelMap s.dirty (addrIndex a) with
    | true =>
      rw [acceptanceRule, startIfDirty_dirty _ a (tookWord ws s) hdirty] at hstep
      refine meetsCommandLevel_of_render _ a s ws hstep hidle hinv hno ?_
      rw [commandTransition, commandRenderd, addrMask_getLsbD, if_pos hdirty]
    | false =>
      rw [acceptanceRule, startIfDirty_clean _ a (tookWord ws s) hdirty] at hstep
      refine meetsCommandLevel_of_complete _ s _ hstep hidle rfl ?_
      rw [commandTransition, commandRenderd, addrMask_getLsbD, hdirty, if_neg Bool.false_ne_true]
      rfl

/-! ### SCAN -/

/-- R104: the observation after the sequence of a RENDER has gained what its planes hold, at its address only. -/
theorem observation_sequenceEnd (a : ScanAddr) (u : State) (b : ScanAddr) (j : Fin 128) (sub : Fin 2) (c : Fin 3) :
    (observation (sequenceEnd (startSequence a u))).2.exposure b j sub c =
      (observation u).2.exposure b j sub c +
        if b = a then Config.baseDelay * (unpackChannel u.ppb j sub c).toNat else 0 := by
  obtain ⟨-, hsame, hmerge⟩ := mergedWaitsAreTheSameObservation
  rw [observation_append u (sequenceEnd (startSequence a u)) (sequencerTrace Config.baseDelay a u.ppb) rfl rfl rfl,
    ← hsame, hmerge _ _ _ baseDelay_pos, observe_renderTrace_exposure]

/-- R69: the run of SCAN `a` is the acceptance of its PACK, giving some state `u`, then the RENDER from `u`. -/
theorem runSteps_scan (a : BitVec 4) (s : State) (ws : List (Option Word))
    (hport : s.port.words = some (encode .pack) :: some (encode (.render a)) :: ws) (hidle : s.seq.phase = .idle)
    (hno : noResetFor (sequenceSteps Config.baseDelay + 2) s) :
    ∃ u : State, runSteps (397 + 7 * Config.baseDelay) s = .next (sequenceEnd (startSequence a u)) ∧
      u.ppb = packRows Config.pixelMap s.rib ∧ u.fresh = true ∧ u.stale = s.stale ∧ observation u = observation s := by
  have hpack := step_command .pack rfl s _ (resetAsserted_of_noResetFor _ s hno) hidle hport
  have hno' := noResetFor_tail _ s (acceptanceRule .pack (tookWord (some (encode (.render a)) :: ws) s)) hno rfl
  have hrender := step_command (.render a) rfl _ ws (resetAsserted_of_noResetFor _ _ hno') hidle rfl
  have hrun := runSteps_render a _ _ hrender rfl hno'
  have hsteps : 397 + 7 * Config.baseDelay = sequenceSteps Config.baseDelay + 1 + 1 := by
    rw [sequenceSteps]
    omega
  rw [hsteps, runSteps_succ _ s _ hpack]
  exact ⟨_, hrun, rfl, rfl, rfl, rfl⟩

/-- Settles O41: the sequence lights the planes that the PACK filled from RIB. -/
theorem scanShowsTheRows : Obligations.ScanShowsTheRows := by
  intro a w w' s ws hasm hport hidle _ hno
  obtain ⟨rfl, rfl⟩ : encode .pack = w ∧ encode (.render a) = w' := by simpa [assemble, expand_scan] using hasm
  obtain ⟨u, hrun, hppb, hfresh, hstale, hobserved⟩ := runSteps_scan a s ws hport hidle hno
  refine ⟨_, hrun, rfl, ?_, rfl, fun j sub c => ?_, fun b hb j sub c => ?_⟩
  · rw [← hstale]
    have hrecord : (sequenceEnd (startSequence a u)).stale = (u.stale || !u.fresh) := rfl
    rw [hrecord, hfresh, Bool.not_true, Bool.or_false]
  · rw [observation_sequenceEnd, if_pos rfl, hobserved, hppb, unpackChannel_packRows]
    rfl
  · rw [observation_sequenceEnd, if_neg hb, hobserved, Nat.add_zero]

end Sys2Proof.Safety
end
